-- ==== Sys2Proof/Word.lean ====
section
/-! DEFINITION. The word types of the machine (00_scope.md rules R11 and R13): bytes, 16-bit words, register
numbers, and the zero extensions between them. All quantities are unsigned. -/

namespace Sys2Proof

/-- An 8-bit value: a `V` register, a timer, a memory byte, a key code (`XLEN = 8`). -/
abbrev Byte := BitVec 8

/-- A 16-bit value: `I`, `PC`, a stack entry, an instruction word (`ALEN = ILEN = 16`). -/
abbrev Word := BitVec 16

/-- A register number X or Y: "always 0-15 by construction" (10_state.md rule R21). -/
abbrev RegIdx := Fin 16

/-- `zext_16` of a byte. -/
def Byte.toWord (b : Byte) : Word := b.setWidth 16

/-- `zext_16` of the 12-bit field NNN (30_encoding.md rule R83). -/
def addrWord (nnn : BitVec 12) : Word := nnn.setWidth 16

end Sys2Proof
end

