-- ==== Sys2Proof/Config.lean ====
section
/-! DEFINITION. What is fixed for the machine (00_scope.md rules R11 and R12): the constants of the hardware, the
types of its parameters, and the free values the spec leaves open. The defaults of the parameters `ALIAS_DECODE`
(Decode.lean), `STACK_DEPTH`, `ST_DECREMENT` and `FONT` (Machine/Params.lean) stand where a repair may mend them. -/

namespace Sys2Proof

/-- `MEM_SIZE`: bytes of memory, addresses 0x000 to 0xFFF. -/
def Config.memSize : Nat := 0x1000

/-- `FONT_BASE`: first byte of the font region. -/
def Config.fontBase : Nat := 0x050

/-- `FONT_END`: last byte of the font region. -/
def Config.fontEnd : Nat := 0x09F

/-- `PROG_BASE`: program load address and reset value of PC. -/
def Config.progBase : Nat := 0x200

/-- The largest ROM that fits: `0x1000 - 0x200 = 3584` bytes (20_memory.md rule R51). -/
def Config.romCapacity : Nat := Config.memSize - Config.progBase

/-- `ALIAS_DECODE`: whether a non-canonical word of CLS, RET, SE VX,VY or SNE VX,VY executes or is an unknown
opcode (30_encoding.md rule R88). -/
inductive AliasDecode where
  | execute
  | fault
  deriving DecidableEq, Repr, Inhabited

/-- `ROM_OVERFLOW_POLICY`: what `loadRom` does with more than 3584 bytes
(45_cycle_driver_and_host.md rule R232). -/
inductive RomOverflowPolicy where
  | truncate
  | ignore
  deriving DecidableEq, Repr, Inhabited

/-- `RND`, a FREE VALUE: the byte the `k`-th executed RND draws. No law constrains it (41_alu.md rule R143,
10_state.md rule R36; log 13). -/
opaque Config.randomByte : Nat → Byte

/-- `ROM_OVERFLOW_POLICY`, a FREE VALUE: the spec leaves it OPEN (rules R12 and R232; log 14). -/
opaque Config.romOverflowPolicy : RomOverflowPolicy

end Sys2Proof
end

