-- ==== Sys2Proof/Syntax.lean ====
section
/-! DEFINITION. The instructions (30_encoding.md rule R86): one constructor per row of the opcode table, its operands
the row's fields. `x` and `y` are the register numbers X and Y, `kk` the constant KK, `nnn` the constant NNN and `n`
the row count N. -/

namespace Sys2Proof

/-- The 34 instructions, in the order of the opcode table. The bits a row does not use as an operand (30_encoding.md
rule R88) are no part of the instruction. -/
inductive Instr where
  | cls
  | ret
  | jpNnn (nnn : BitVec 12)
  | callNnn (nnn : BitVec 12)
  | seVxKk (x : RegIdx) (kk : Byte)
  | sneVxKk (x : RegIdx) (kk : Byte)
  | seVxVy (x y : RegIdx)
  | ldVxKk (x : RegIdx) (kk : Byte)
  | addVxKk (x : RegIdx) (kk : Byte)
  | ldVxVy (x y : RegIdx)
  | orVxVy (x y : RegIdx)
  | andVxVy (x y : RegIdx)
  | xorVxVy (x y : RegIdx)
  | addVxVy (x y : RegIdx)
  | subVxVy (x y : RegIdx)
  | shrVx (x : RegIdx)
  | subnVxVy (x y : RegIdx)
  | shlVx (x : RegIdx)
  | sneVxVy (x y : RegIdx)
  | ldINnn (nnn : BitVec 12)
  | jpV0Nnn (nnn : BitVec 12)
  | rndVxKk (x : RegIdx) (kk : Byte)
  | drwVxVyN (x y : RegIdx) (n : Nat)
  | skpVx (x : RegIdx)
  | sknpVx (x : RegIdx)
  | ldVxDt (x : RegIdx)
  | ldVxK (x : RegIdx)
  | ldDtVx (x : RegIdx)
  | ldStVx (x : RegIdx)
  | addIVx (x : RegIdx)
  | ldFVx (x : RegIdx)
  | ldBVx (x : RegIdx)
  | ldMemVx (x : RegIdx)
  | ldVxMem (x : RegIdx)
  deriving DecidableEq, Repr

end Sys2Proof
end

