-- ==== Sys2Proof/Decode.lean ====
section
/-! DEFINITION. Encoding (30_encoding.md): the fields of a word (rule R81), the decode procedure (rule R93), the same
from bytes in memory order (20_memory.md rule R52), the opcode map as mask and match (rule R86), and the encoder, which
gives the canonical encoding (rule R88). The numbers of the map are the spec's general knowledge (G1; log 8). -/

namespace Sys2Proof

/-- `ALIAS_DECODE`, at the spec's default (rule R88, D11; log 7). -/
def aliasDecode : AliasDecode := .execute

/-! ## Fields of a word (rule R81) -/

/-- `G = w[15:12]`, the instruction group, as a number 0 to 15. -/
def fieldG (w : Word) : Nat := (w.extractLsb' 12 4).toNat

/-- `X = w[11:8]`. -/
def fieldX (w : Word) : RegIdx := (w.extractLsb' 8 4).toFin

/-- `Y = w[7:4]`. -/
def fieldY (w : Word) : RegIdx := (w.extractLsb' 4 4).toFin

/-- `N = w[3:0]`, as a number. -/
def fieldN (w : Word) : Nat := (w.extractLsb' 0 4).toNat

/-- `NNN = w[11:0]`. -/
def fieldNNN (w : Word) : BitVec 12 := w.extractLsb' 0 12

/-- `KK = w[7:0]`. -/
def fieldKK (w : Word) : Byte := w.extractLsb' 0 8

/-! ## The decode procedure (rule R93) -/

/-- Bits the decoder does not examine: with `ALIAS_DECODE = execute` any value of them is accepted, with `fault` only
0, the canonical one (rule R88). -/
def unexaminedOk (p : AliasDecode) (bits : Nat) : Bool :=
  match p with
  | .execute => true
  | .fault => bits == 0

/-- Group 0x0 branches on the low byte; X is not examined. -/
def decodeGroup0 (p : AliasDecode) (w : Word) : Option Instr :=
  if unexaminedOk p (fieldX w).val then
    match (fieldKK w).toNat with
    | 0xE0 => some .cls
    | 0xEE => some .ret
    | _ => none
  else none

/-- Group 0x8 branches on the low nibble. -/
def decodeGroup8 (w : Word) : Option Instr :=
  match fieldN w with
  | 0x0 => some (.ldVxVy (fieldX w) (fieldY w))
  | 0x1 => some (.orVxVy (fieldX w) (fieldY w))
  | 0x2 => some (.andVxVy (fieldX w) (fieldY w))
  | 0x3 => some (.xorVxVy (fieldX w) (fieldY w))
  | 0x4 => some (.addVxVy (fieldX w) (fieldY w))
  | 0x5 => some (.subVxVy (fieldX w) (fieldY w))
  | 0x6 => some (.shrVx (fieldX w))
  | 0x7 => some (.subnVxVy (fieldX w) (fieldY w))
  | 0xE => some (.shlVx (fieldX w))
  | _ => none

/-- Group 0xE branches on the low byte. -/
def decodeGroupE (w : Word) : Option Instr :=
  match (fieldKK w).toNat with
  | 0x9E => some (.skpVx (fieldX w))
  | 0xA1 => some (.sknpVx (fieldX w))
  | _ => none

/-- Group 0xF branches on the low byte. -/
def decodeGroupF (w : Word) : Option Instr :=
  match (fieldKK w).toNat with
  | 0x07 => some (.ldVxDt (fieldX w))
  | 0x0A => some (.ldVxK (fieldX w))
  | 0x15 => some (.ldDtVx (fieldX w))
  | 0x18 => some (.ldStVx (fieldX w))
  | 0x1E => some (.addIVx (fieldX w))
  | 0x29 => some (.ldFVx (fieldX w))
  | 0x33 => some (.ldBVx (fieldX w))
  | 0x55 => some (.ldMemVx (fieldX w))
  | 0x65 => some (.ldVxMem (fieldX w))
  | _ => none

/-- Decode, total on every word: the instruction, or `none` for `unknown` (rules R84, R85, R89, R93), with the
parameter `ALIAS_DECODE` as an argument. -/
def decodeWith (p : AliasDecode) (w : Word) : Option Instr :=
  match fieldG w with
  | 0x0 => decodeGroup0 p w
  | 0x1 => some (.jpNnn (fieldNNN w))
  | 0x2 => some (.callNnn (fieldNNN w))
  | 0x3 => some (.seVxKk (fieldX w) (fieldKK w))
  | 0x4 => some (.sneVxKk (fieldX w) (fieldKK w))
  | 0x5 => if unexaminedOk p (fieldN w) then some (.seVxVy (fieldX w) (fieldY w)) else none
  | 0x6 => some (.ldVxKk (fieldX w) (fieldKK w))
  | 0x7 => some (.addVxKk (fieldX w) (fieldKK w))
  | 0x8 => decodeGroup8 w
  | 0x9 => if unexaminedOk p (fieldN w) then some (.sneVxVy (fieldX w) (fieldY w)) else none
  | 0xA => some (.ldINnn (fieldNNN w))
  | 0xB => some (.jpV0Nnn (fieldNNN w))
  | 0xC => some (.rndVxKk (fieldX w) (fieldKK w))
  | 0xD => some (.drwVxVyN (fieldX w) (fieldY w) (fieldN w))
  | 0xE => decodeGroupE w
  | 0xF => decodeGroupF w
  | _ => none

/-- The decoder of this machine: `ALIAS_DECODE` at its default. -/
def decodeWord (w : Word) : Option Instr := decodeWith aliasDecode w

/-! ## Decoding bytes in memory order -/

/-- Why bytes are no instruction. -/
inductive DecodeError where
  /-- The word selects no row of the opcode map (rule R89). -/
  | unknownOpcode (w : Word)
  /-- Fewer than the two bytes of an instruction (rule R80). -/
  | truncated
  deriving DecidableEq, Repr

/-- The word two bytes hold, big-endian: the byte at the lower address is `w[15:8]` (20_memory.md rule R52). -/
def wordOfBytes (hi lo : Byte) : Word := hi ++ lo

/-- `w[15:8]`, the byte stored at the lower address. -/
def highByte (w : Word) : Byte := w.extractLsb' 8 8

/-- `w[7:0]`, the byte stored at the higher address. -/
def lowByte (w : Word) : Byte := w.extractLsb' 0 8

/-- Decode the first instruction of any bytes and give the rest back, or name the rejection. -/
def decodeBytes : List Byte → Except DecodeError (Instr × List Byte)
  | hi :: lo :: rest =>
    match decodeWord (wordOfBytes hi lo) with
    | some i => .ok (i, rest)
    | none => .error (.unknownOpcode (wordOfBytes hi lo))
  | _ => .error .truncated

/-- The instruction word whose lowest `nbits` bits are those of `w`, every bit above them 0. -/
def tableWord (nbits w : Nat) : Word := BitVec.ofNat 16 (w % 2 ^ nbits)

/-- The instruction the decoder reads from the word `w`, numbered as the opcode table numbers its bits: laid out
big-endian, as the hardware stores it. -/
def decodeTableWord (nbits w : Nat) : Option Instr :=
  match decodeBytes [highByte (tableWord nbits w), lowByte (tableWord nbits w)] with
  | .ok (i, _) => some i
  | .error _ => none

/-! ## The opcode map as mask and match (rule R86) -/

/-- A row of the opcode map: a word `w` selects it iff `w AND mask = bits`. `canonicalMask` is the mask under
`ALIAS_DECODE = fault` (rule R88). -/
structure OpcodeRow where
  mnemonic : String
  mask : Word
  bits : Word
  canonicalMask : Word
  deriving DecidableEq, Repr

/-- `w` selects the row. -/
def OpcodeRow.selects (r : OpcodeRow) (w : Word) : Bool := w &&& r.mask == r.bits

/-- Groups 0x0 to 0x7 of the map. -/
def opcodeRowsLow : List OpcodeRow :=
  [ ⟨"CLS", 0xF0FF, 0x00E0, 0xFFFF⟩, ⟨"RET", 0xF0FF, 0x00EE, 0xFFFF⟩,
    ⟨"JP_NNN", 0xF000, 0x1000, 0xF000⟩, ⟨"CALL_NNN", 0xF000, 0x2000, 0xF000⟩,
    ⟨"SE_VX_KK", 0xF000, 0x3000, 0xF000⟩, ⟨"SNE_VX_KK", 0xF000, 0x4000, 0xF000⟩,
    ⟨"SE_VX_VY", 0xF000, 0x5000, 0xF00F⟩, ⟨"LD_VX_KK", 0xF000, 0x6000, 0xF000⟩,
    ⟨"ADD_VX_KK", 0xF000, 0x7000, 0xF000⟩ ]

/-- Groups 0x8 to 0xD of the map. -/
def opcodeRowsMid : List OpcodeRow :=
  [ ⟨"LD_VX_VY", 0xF00F, 0x8000, 0xF00F⟩, ⟨"OR_VX_VY", 0xF00F, 0x8001, 0xF00F⟩,
    ⟨"AND_VX_VY", 0xF00F, 0x8002, 0xF00F⟩, ⟨"XOR_VX_VY", 0xF00F, 0x8003, 0xF00F⟩,
    ⟨"ADD_VX_VY", 0xF00F, 0x8004, 0xF00F⟩, ⟨"SUB_VX_VY", 0xF00F, 0x8005, 0xF00F⟩,
    ⟨"SHR_VX", 0xF00F, 0x8006, 0xF00F⟩, ⟨"SUBN_VX_VY", 0xF00F, 0x8007, 0xF00F⟩,
    ⟨"SHL_VX", 0xF00F, 0x800E, 0xF00F⟩, ⟨"SNE_VX_VY", 0xF000, 0x9000, 0xF00F⟩,
    ⟨"LD_I_NNN", 0xF000, 0xA000, 0xF000⟩, ⟨"JP_V0_NNN", 0xF000, 0xB000, 0xF000⟩,
    ⟨"RND_VX_KK", 0xF000, 0xC000, 0xF000⟩, ⟨"DRW_VX_VY_N", 0xF000, 0xD000, 0xF000⟩ ]

/-- Groups 0xE and 0xF of the map. -/
def opcodeRowsHigh : List OpcodeRow :=
  [ ⟨"SKP_VX", 0xF0FF, 0xE09E, 0xF0FF⟩, ⟨"SKNP_VX", 0xF0FF, 0xE0A1, 0xF0FF⟩,
    ⟨"LD_VX_DT", 0xF0FF, 0xF007, 0xF0FF⟩, ⟨"LD_VX_K", 0xF0FF, 0xF00A, 0xF0FF⟩,
    ⟨"LD_DT_VX", 0xF0FF, 0xF015, 0xF0FF⟩, ⟨"LD_ST_VX", 0xF0FF, 0xF018, 0xF0FF⟩,
    ⟨"ADD_I_VX", 0xF0FF, 0xF01E, 0xF0FF⟩, ⟨"LD_F_VX", 0xF0FF, 0xF029, 0xF0FF⟩,
    ⟨"LD_B_VX", 0xF0FF, 0xF033, 0xF0FF⟩, ⟨"LD__I__VX", 0xF0FF, 0xF055, 0xF0FF⟩,
    ⟨"LD_VX__I", 0xF0FF, 0xF065, 0xF0FF⟩ ]

/-- The complete opcode map, 34 rows. -/
def opcodeRows : List OpcodeRow := opcodeRowsLow ++ opcodeRowsMid ++ opcodeRowsHigh

/-- The row of the map an instruction belongs to, by its mnemonic. -/
def Instr.mnemonic : Instr → String
  | .cls => "CLS"
  | .ret => "RET"
  | .jpNnn _ => "JP_NNN"
  | .callNnn _ => "CALL_NNN"
  | .seVxKk _ _ => "SE_VX_KK"
  | .sneVxKk _ _ => "SNE_VX_KK"
  | .seVxVy _ _ => "SE_VX_VY"
  | .ldVxKk _ _ => "LD_VX_KK"
  | .addVxKk _ _ => "ADD_VX_KK"
  | .ldVxVy _ _ => "LD_VX_VY"
  | .orVxVy _ _ => "OR_VX_VY"
  | .andVxVy _ _ => "AND_VX_VY"
  | .xorVxVy _ _ => "XOR_VX_VY"
  | .addVxVy _ _ => "ADD_VX_VY"
  | .subVxVy _ _ => "SUB_VX_VY"
  | .shrVx _ => "SHR_VX"
  | .subnVxVy _ _ => "SUBN_VX_VY"
  | .shlVx _ => "SHL_VX"
  | .sneVxVy _ _ => "SNE_VX_VY"
  | .ldINnn _ => "LD_I_NNN"
  | .jpV0Nnn _ => "JP_V0_NNN"
  | .rndVxKk _ _ => "RND_VX_KK"
  | .drwVxVyN _ _ _ => "DRW_VX_VY_N"
  | .skpVx _ => "SKP_VX"
  | .sknpVx _ => "SKNP_VX"
  | .ldVxDt _ => "LD_VX_DT"
  | .ldVxK _ => "LD_VX_K"
  | .ldDtVx _ => "LD_DT_VX"
  | .ldStVx _ => "LD_ST_VX"
  | .addIVx _ => "ADD_I_VX"
  | .ldFVx _ => "LD_F_VX"
  | .ldBVx _ => "LD_B_VX"
  | .ldMemVx _ => "LD__I__VX"
  | .ldVxMem _ => "LD_VX__I"

/-! ## The encoder: canonical encodings (rules R82, R86, R88) -/

/-- A word from its four nibbles, the top one first. -/
def wordOfNibbles (g a b c : BitVec 4) : Word := g ++ a ++ b ++ c

/-- Format A: `G NNN`. -/
def formatA (g : BitVec 4) (nnn : BitVec 12) : Word := g ++ nnn

/-- Format K: `G X KK`. -/
def formatK (g : BitVec 4) (x : RegIdx) (kk : Byte) : Word := g ++ (BitVec.ofFin x : BitVec 4) ++ kk

/-- Formats R and D: `G X Y N`. -/
def formatR (g : BitVec 4) (x y : RegIdx) (n : BitVec 4) : Word :=
  wordOfNibbles g (BitVec.ofFin x) (BitVec.ofFin y) n

/-- Format S: `G X sub-opcode`, the sub-opcode a byte. -/
def formatS (g : BitVec 4) (x : RegIdx) (sub : Byte) : Word := formatK g x sub

/-- The canonical encoding of an instruction. -/
def encode : Instr → Word
  | .cls => formatK 0x0 0 0xE0
  | .ret => formatK 0x0 0 0xEE
  | .jpNnn nnn => formatA 0x1 nnn
  | .callNnn nnn => formatA 0x2 nnn
  | .seVxKk x kk => formatK 0x3 x kk
  | .sneVxKk x kk => formatK 0x4 x kk
  | .seVxVy x y => formatR 0x5 x y 0x0
  | .ldVxKk x kk => formatK 0x6 x kk
  | .addVxKk x kk => formatK 0x7 x kk
  | .ldVxVy x y => formatR 0x8 x y 0x0
  | .orVxVy x y => formatR 0x8 x y 0x1
  | .andVxVy x y => formatR 0x8 x y 0x2
  | .xorVxVy x y => formatR 0x8 x y 0x3
  | .addVxVy x y => formatR 0x8 x y 0x4
  | .subVxVy x y => formatR 0x8 x y 0x5
  | .shrVx x => formatR 0x8 x 0 0x6
  | .subnVxVy x y => formatR 0x8 x y 0x7
  | .shlVx x => formatR 0x8 x 0 0xE
  | .sneVxVy x y => formatR 0x9 x y 0x0
  | .ldINnn nnn => formatA 0xA nnn
  | .jpV0Nnn nnn => formatA 0xB nnn
  | .rndVxKk x kk => formatK 0xC x kk
  | .drwVxVyN x y n => formatR 0xD x y (BitVec.ofNat 4 n)
  | .skpVx x => formatS 0xE x 0x9E
  | .sknpVx x => formatS 0xE x 0xA1
  | .ldVxDt x => formatS 0xF x 0x07
  | .ldVxK x => formatS 0xF x 0x0A
  | .ldDtVx x => formatS 0xF x 0x15
  | .ldStVx x => formatS 0xF x 0x18
  | .addIVx x => formatS 0xF x 0x1E
  | .ldFVx x => formatS 0xF x 0x29
  | .ldBVx x => formatS 0xF x 0x33
  | .ldMemVx x => formatS 0xF x 0x55
  | .ldVxMem x => formatS 0xF x 0x65

end Sys2Proof
end

