-- ==== Sys2Proof/Machine/State.lean ====
section
/-! DEFINITION. The state of the machine as plain data (10_state.md rules R20 to R39), its faults (60_exceptions.md
rule R260), its notifications (45_cycle_driver_and_host.md rules R240 to R243), and its reset (rules R38, R39,
70_reset_and_hazards.md rule R302). -/

namespace Sys2Proof.Machine

/-- `Mem` as address and byte pairs, addresses strictly rising; an address not listed holds what `Initialize` leaves
there (`Memory.resetByte`), and no entry repeats that value (`Memory.wf`). -/
abbrev Memory := List Host.Cell

/-- The register file `V` (rule R21). -/
abbrev Regs := Vector Byte 16

/-- The framebuffer `FB` (rule R32): 32 rows, row `y` a word of 64 one-bit pixels whose bit `x` is `FB[x][y]`
(log 27). -/
abbrev Framebuffer := Vector (BitVec 64) 32

/-- `RUN` (rule R33). -/
inductive RunState where
  | running
  | paused
  deriving DecidableEq, Repr

/-- `HALT_CAUSE` (rules R33 and R260), in the order of its codes 0 to 5. -/
inductive HaltCause where
  | none
  | pcOutOfBounds
  | unknownOpcode
  | stackUnderflow
  | memOutOfBounds
  | stackOverflow
  deriving DecidableEq, Repr

/-- The faults (rule R260) with the information each records. A cycle that raises one does not stop the model: the
machine is halted, which is a next state (`raise`, rule R266; log 1). The state a fault leaves is the spec's decision
(log 2), so a claim about a program takes "no fault was raised" as a premise or proves it (rule R270). -/
inductive Fault where
  /-- Raised in FETCH by any cycle whose `PC` is 0xFFF or more (rule R261). Exact at 0x1000 and above; at 0xFFF the
  safe reading (log 21). -/
  | pcOutOfBounds (pc : Word)
  /-- Raised in DECODE by any cycle that fetched a word of no row (rule R262). Unsafe where the map's numbers or the
  treatment of the non-canonical words differ from the hardware (logs 7, 8). -/
  | unknownOpcode (w pc : Word)
  /-- Raised by RET with an empty stack (rule R263). The spec's decision where the source is open; unsafe only for a
  claim about the state after the fault (log 3). -/
  | stackUnderflow (pc : Word)
  /-- Raised by DRW, LD B,VX, LD [I],VX and LD VX,[I] when they would touch an address above 0xFFF, the first of
  which it records (rule R264). The spec's decision; unsafe only for a claim about the state after it (log 4). -/
  | memOutOfBounds (addr : Nat) (pc : Word)
  /-- Raised by CALL when `STACK_DEPTH` is finite and reached (rule R265): never at the default (log 5). -/
  | stackOverflow (pc : Word)
  deriving DecidableEq, Repr

/-- Why a step has no meaning. -/
inductive Refusal where
  /-- Raised by `exec` for an instruction that has no meaning yet: none in this model. Safe. -/
  | notModelled (mnemonic : String)
  /-- Raised by a cycle before the first `Initialize`, which has no meaning (rule R39; log 17). Safe. -/
  | notInitialised
  deriving DecidableEq, Repr

/-- The notification channels (rules R8, R240 to R243). A payload is a value copy of what it reports; the layout of a
payload and the text of a log message are the implementer's (N10, N11; log 23). -/
inductive Notification where
  /-- The framebuffer after the cycle. -/
  | frame (fb : Framebuffer)
  /-- `V`, `I`, `PC` and all of `Mem` after the cycle. -/
  | registers (v : Regs) (i pc : Word) (mem : Memory)
  /-- The fault a cycle raised. -/
  | log (f : Fault)
  | endOfCycle
  deriving DecidableEq, Repr

/-- The complete state of the core (rule R20), the flag of rule R39, and the model's own `draws` and `notes`. -/
structure State where
  /-- `V[0]` to `V[15]`; `V[15]` is `VF` (rules R21, R22). -/
  v : Regs
  /-- `I` (rule R23). -/
  i : Word
  /-- `PC` (rule R24). -/
  pc : Word
  /-- `STACK`, the newest entry first (rule R26). -/
  stack : List Word
  /-- `DT` (rule R28). -/
  dt : Byte
  /-- `ST` (rule R28). -/
  st : Byte
  /-- `Mem` (rule R30). -/
  mem : Memory
  /-- `FB` (rule R32). -/
  fb : Framebuffer
  /-- `KEY` (rule R29). -/
  key : Byte
  /-- `PRESSED` (rule R29). -/
  pressed : Bool
  /-- `RUN` (rule R33). -/
  run : RunState
  /-- `HALT_CAUSE` (rule R33). -/
  haltCause : HaltCause
  /-- `CLOCK_HZ`, a positive number (rule R34; log 15). -/
  clockHz : Rat
  /-- Whether the first `Initialize` has been performed (rule R39; log 17). -/
  initialised : Bool
  /-- The model's own: how many random bytes RND has drawn, so which free value comes next (log 13). -/
  draws : Nat
  /-- The model's own: the notifications the most recent cycle emitted, in order (rule R37; log 23). -/
  notes : List Notification
  deriving DecidableEq, Repr

/-- The machine right after reset: `Initialize` (rule R38) as a hardware reset input performs it, with `RUN` paused
(70_reset_and_hazards.md rule R302; log 16). `CLOCK_HZ` is log 15's, `draws` and `notes` are the model's own. -/
def State.reset : State where
  v := Vector.replicate 16 0
  i := 0
  pc := BitVec.ofNat 16 Config.progBase
  stack := []
  dt := 0
  st := 0
  mem := []
  fb := Vector.replicate 32 0
  key := 0
  pressed := false
  run := .paused
  haltCause := .none
  clockHz := 1
  initialised := true
  draws := 0
  notes := []

/-- The machine at creation, before the first `Initialize` (rule R39): paused and not halted. Every other field holds
a placeholder that no cycle reads, because a cycle is refused until `Initialize` (log 17). -/
def State.created : State := { State.reset with initialised := false }

end Sys2Proof.Machine
end

