-- ==== Sys2Proof/Machine/Params.lean ====
section
/-! DEFINITION. The parameters of the machine at the spec's defaults (00_scope.md rule R12): `STACK_DEPTH`,
`ST_DECREMENT` and the font. -/

namespace Sys2Proof.Machine

/-- `STACK_DEPTH`: unbounded (10_state.md rule R26, D14; log 5). -/
def stackDepth : Option Nat := none

/-- `ST_DECREMENT`: the sound timer is not decremented (45_cycle_driver_and_host.md rule R222, D17; log 6). -/
def stDecrement : Bool := false

/-- Glyphs 0 to 7 of the font (10_state.md rule R31; the bytes are general knowledge, G2; log 9). -/
def fontLow : List Byte :=
  [0xF0, 0x90, 0x90, 0x90, 0xF0] ++ [0x20, 0x60, 0x20, 0x20, 0x70] ++ [0xF0, 0x10, 0xF0, 0x80, 0xF0] ++
  [0xF0, 0x10, 0xF0, 0x10, 0xF0] ++ [0x90, 0x90, 0xF0, 0x10, 0x10] ++ [0xF0, 0x80, 0xF0, 0x10, 0xF0] ++
  [0xF0, 0x80, 0xF0, 0x90, 0xF0] ++ [0xF0, 0x10, 0x20, 0x40, 0x40]

/-- Glyphs 8 to F of the font. -/
def fontHigh : List Byte :=
  [0xF0, 0x90, 0xF0, 0x90, 0xF0] ++ [0xF0, 0x90, 0xF0, 0x10, 0xF0] ++ [0xF0, 0x90, 0xF0, 0x90, 0x90] ++
  [0xE0, 0x90, 0xE0, 0x90, 0xE0] ++ [0xF0, 0x80, 0x80, 0x80, 0xF0] ++ [0xE0, 0x90, 0x90, 0x90, 0xE0] ++
  [0xF0, 0x80, 0xF0, 0x80, 0xF0] ++ [0xF0, 0x80, 0xF0, 0x80, 0x80]

/-- `FONT[0..79]`. -/
def font : List Byte := fontLow ++ fontHigh

end Sys2Proof.Machine
end

