-- ==== Sys2Proof/Machine/Ops.lean ====
section
/-! DEFINITION. The named operations over registers, memory, stack and framebuffer; the phases that end a cycle
(45_cycle_driver_and_host.md rule R220); and taking a fault (60_exceptions.md rule R266) with the return from one
(rule R268) beside it. -/

namespace Sys2Proof.Machine

/-- The answer of a cycle. -/
abbrev Result := Host.Outcome State Fault Refusal

/-! ## Writes of one piece of state -/

/-- Replace the register file. -/
def State.setV (s : State) (v : Regs) : State := { s with v := v }
/-- `I <- a`. -/
def State.setI (s : State) (a : Word) : State := { s with i := a }
/-- `PC <- a`. -/
def State.setPc (s : State) (a : Word) : State := { s with pc := a }
/-- Replace the call stack. -/
def State.setStack (s : State) (l : List Word) : State := { s with stack := l }
/-- `DT <- b`. -/
def State.setDt (s : State) (b : Byte) : State := { s with dt := b }
/-- `ST <- b`. -/
def State.setSt (s : State) (b : Byte) : State := { s with st := b }
/-- Replace the memory. -/
def State.setMem (s : State) (m : Memory) : State := { s with mem := m }
/-- Replace the framebuffer. -/
def State.setFb (s : State) (f : Framebuffer) : State := { s with fb := f }
/-- `KEY <- b`. -/
def State.setKey (s : State) (b : Byte) : State := { s with key := b }
/-- `PRESSED <- b`. -/
def State.setPressed (s : State) (b : Bool) : State := { s with pressed := b }
/-- `RUN <- r`. -/
def State.setRun (s : State) (r : RunState) : State := { s with run := r }
/-- `HALT_CAUSE <- c`. -/
def State.setHaltCause (s : State) (c : HaltCause) : State := { s with haltCause := c }
/-- `CLOCK_HZ <- hz`. -/
def State.setClockHz (s : State) (hz : Rat) : State := { s with clockHz := hz }
/-- The index of the next free random byte. -/
def State.setDraws (s : State) (k : Nat) : State := { s with draws := k }
/-- What the cycle emits. -/
def State.setNotes (s : State) (l : List Notification) : State := { s with notes := l }

/-! ## Registers (10_state.md rules R21, R22) -/

/-- The number of `VF`. -/
def vf : RegIdx := 15

/-- Read `V[x]`. -/
def State.reg (s : State) (x : RegIdx) : Byte := s.v[x]

/-- `V[x] <- b`. -/
def State.setReg (s : State) (x : RegIdx) (b : Byte) : State := s.setV (s.v.set x b)

/-- The register numbers 0 to 15. -/
def allRegs : List RegIdx := [0, 1, 2, 3, 4, 5, 6, 7, 8, 9, 10, 11, 12, 13, 14, 15]

/-- The register numbers 0 to `x`, ascending and inclusive ("`0..=X`", 42_index_memory.md rule R165). -/
def regsUpTo (x : RegIdx) : List RegIdx := allRegs.take (x.val + 1)

/-! ## Memory (20_memory.md rules R50 to R57) -/

/-- What an address holds after `Initialize` (10_state.md rule R38): its font byte in the font region, else 0. -/
def Memory.resetByte (a : Nat) : Byte :=
  if Config.fontBase ≤ a ∧ a ≤ Config.fontEnd then font.getD (a - Config.fontBase) 0 else 0

/-- Read one byte: the listed one, else what `Initialize` left there. -/
def Memory.read : Memory → Nat → Byte
  | [], a => Memory.resetByte a
  | (b, w) :: rest, a => if b = a then w else Memory.read rest a

/-- The cells but the one at `a`. -/
def Memory.without (m : Memory) (a : Nat) : Memory := m.filter fun c => c.1 != a

/-- Put a cell before the first one at a higher address. -/
def Memory.place : Memory → Nat → Byte → Memory
  | [], a, w => [(a, w)]
  | (b, u) :: rest, a, w => if a < b then (a, w) :: (b, u) :: rest else (b, u) :: Memory.place rest a w

/-- Write one byte, keeping the canonical form. -/
def Memory.write (m : Memory) (a : Nat) (w : Byte) : Memory :=
  if w = Memory.resetByte a then m.without a else (m.without a).place a w

/-- Write consecutive bytes from `a` on, ascending. -/
def Memory.writeBytes : Memory → Nat → List Byte → Memory
  | m, _, [] => m
  | m, a, w :: ws => Memory.writeBytes (m.write a w) (a + 1) ws

/-- The canonical form from address `lo` on: addresses strictly rise and lie below `MEM_SIZE`, and no entry repeats
what `Initialize` leaves at its address. -/
def Memory.wfFrom : Nat → Memory → Bool
  | _, [] => true
  | lo, (a, w) :: rest =>
    decide (lo ≤ a) && decide (a < Config.memSize) && decide (w ≠ Memory.resetByte a) && Memory.wfFrom (a + 1) rest

/-- The canonical form of a memory. -/
def Memory.wf (m : Memory) : Bool := Memory.wfFrom 0 m

/-- The first address above 0xFFF among the `n` addresses from `base` on, no wrap (rules R56, R164). -/
def firstOutside (base n : Nat) : Option Nat :=
  if 1 ≤ n ∧ Config.memSize - 1 < base + (n - 1) then some (max base Config.memSize) else none

/-! ## The call stack (10_state.md rules R26, R27) -/

/-- `push`, with `STACK_DEPTH` as an argument; `none` where it raises StackOverflow. -/
def State.push? (depth : Option Nat) (a : Word) (s : State) : Option State :=
  if depth = some s.stack.length then none else some (s.setStack (a :: s.stack))

/-- `pop`: the newest entry and the state without it; `none` where it raises StackUnderflow. -/
def State.pop? (s : State) : Option (Word × State) :=
  match s.stack with
  | [] => none
  | a :: rest => some (a, s.setStack rest)

/-! ## The framebuffer (10_state.md rule R32, 43_display.md rules R181 to R183) -/

/-- `FB[x][y]`; off the grid there is no pixel, and the reading is `false`. -/
def Framebuffer.pixel (f : Framebuffer) (x y : Nat) : Bool :=
  if h : y < 32 then (f[y]).getLsbD x else false

/-- `FB[x][y] <- FB[x][y] XOR 1`; nothing off the grid. -/
def Framebuffer.toggle (f : Framebuffer) (x y : Nat) : Framebuffer :=
  if h : y < 32 then f.set y (f[y] ^^^ BitVec.twoPow 64 x) else f

/-- All 2048 pixels 0. -/
def Framebuffer.blank : Framebuffer := Vector.replicate 32 0

/-- The framebuffer while a sprite is drawn, with the collision seen so far. -/
structure Canvas where
  fb : Framebuffer
  collision : Bool
  deriving DecidableEq, Repr

/-- Draw one set bit of a sprite: clipped, not wrapped (rule R183). -/
def Canvas.plot (c : Canvas) (x y : Nat) : Canvas :=
  if x ≤ 63 ∧ y ≤ 31 then ⟨c.fb.toggle x y, c.collision || c.fb.pixel x y⟩ else c

/-- Draw the given columns of a sprite row at (x0, y): column 0 is bit 7 (rule R182, G3; log 10). -/
def Canvas.drawRow (row : Byte) (x0 y : Nat) : List Nat → Canvas → Canvas
  | [], c => c
  | col :: cols, c => Canvas.drawRow row x0 y cols (if row.getLsbD (7 - col) then c.plot (x0 + col) y else c)

/-- The columns of a sprite row. -/
def spriteColumns : List Nat := [0, 1, 2, 3, 4, 5, 6, 7]

/-- Draw the given rows of the sprite whose bytes start at `base`: row `r` is the byte at `base + r`, drawn at
`y0 + r` (rule R182). -/
def Canvas.drawRows (m : Memory) (base x0 y0 : Nat) : List Nat → Canvas → Canvas
  | [], c => c
  | r :: rs, c =>
    Canvas.drawRows m base x0 y0 rs (Canvas.drawRow (m.read (base + r)) x0 (y0 + r) spriteColumns c)

/-! ## Phases that end a cycle (rule R220) -/

/-- One count of a timer: toward 0, never below (rule R222). -/
def tickDown (n : Byte) : Byte := if n = 0 then 0 else n - 1

/-- Phase TIMER (rule R222), with `ST_DECREMENT` as an argument. -/
def State.timerPhase (stDec : Bool) (s : State) : State :=
  (s.setDt (tickDown s.dt)).setSt (if stDec then tickDown s.st else s.st)

/-- Phase LATCH (rule R224). -/
def State.latchPhase (s : State) : State := s.setPressed false

/-- The three post-cycle notifications, of the state as it stands (rule R225). -/
def State.cycleNotes (s : State) : List Notification :=
  [.frame s.fb, .registers s.v s.i s.pc s.mem, .endOfCycle]

/-- Phase NOTIFY (rule R225). -/
def State.notifyPhase (s : State) : State := s.setNotes s.cycleNotes

/-- Phases TIMER, ADVANCE, LATCH and NOTIFY. -/
def State.endCycle (s : State) (nextPc : Word) : State :=
  (((s.timerPhase stDecrement).setPc nextPc).latchPhase).notifyPhase

/-- Complete the cycle, the next instruction at `nextPc`. -/
def complete (nextPc : Word) (s : State) : Result := .next (s.endCycle nextPc)

/-- Complete the cycle at the following instruction (rule R223). -/
def completeSeq (s : State) : Result := complete (s.pc + 2) s

/-- Complete the cycle of a skip: `pc + 4` when its comparison holds, else `pc + 2` (40_flow_control.md rule
R117). -/
def completeSkip (holds : Bool) (s : State) : Result := complete (if holds then s.pc + 4 else s.pc + 2) s

/-! ## Faults (60_exceptions.md) -/

/-- The value of `HALT_CAUSE` a fault leaves (rule R260). -/
def Fault.cause : Fault → HaltCause
  | .pcOutOfBounds _ => .pcOutOfBounds
  | .unknownOpcode _ _ => .unknownOpcode
  | .stackUnderflow _ => .stackUnderflow
  | .memOutOfBounds _ _ => .memOutOfBounds
  | .stackOverflow _ => .stackOverflow

/-- The numeric code of a `HALT_CAUSE` (rule R260). -/
def HaltCause.code : HaltCause → Nat
  | .none => 0
  | .pcOutOfBounds => 1
  | .unknownOpcode => 2
  | .stackUnderflow => 3
  | .memOutOfBounds => 4
  | .stackOverflow => 5

/-- The halted state a fault leaves: machine state as the cycle found it, `HALT_CAUSE` the cause, `RUN` paused, one
log notification (rule R266). -/
def State.halt (f : Fault) (s : State) : State :=
  ((s.setHaltCause f.cause).setRun .paused).setNotes [.log f]

/-- TAKING A FAULT: the cycle is abandoned and the machine is halted (rules R266, R267; log 1). -/
def raise (f : Fault) (s : State) : Result := .next (s.halt f)

/-- LEAVING HALTED: `Start`, the "resume" of the source (rule R268, 45_cycle_driver_and_host.md rule R226). Nothing
is restored, because nothing was saved. -/
def State.start (s : State) : State := (s.setRun .running).setHaltCause .none

/-- Run `body` if the `n` addresses from `base` on exist; else raise MemOutOfBounds before anything is read or
written (20_memory.md rule R56, rule R264). -/
def guardRange (base n : Nat) (s : State) (body : Result) : Result :=
  match firstOutside base n with
  | some a => raise (.memOutOfBounds a s.pc) s
  | none => body

/-! ## Fetch (45_cycle_driver_and_host.md rule R221, 20_memory.md rule R52) -/

/-- The two bytes at an address, in memory order, put at that address. -/
def State.putPair (s : State) (a : Nat) (hi lo : Byte) : State := s.setMem ((s.mem.write a hi).write (a + 1) lo)

end Sys2Proof.Machine
end

