-- ==== Sys2Proof/Machine/Operands.lean ====
section
/-! DEFINITION. The operand forms (30_encoding.md rule R83): constants as they stand, NNN zero-extended, the address of
a glyph, the offset jump target, the decimal digits of a register, and the bytes and registers of a dump or a load. The
only addressing mode is "byte at `I + k`" (42_index_memory.md). -/

namespace Sys2Proof.Machine

/-- The target `V[0] + NNN` of JP V0,NNN: no wrap, no mask (40_flow_control.md rule R118). -/
def offsetTarget (s : State) (nnn : BitVec 12) : Word := (s.reg 0).toWord + addrWord nnn

/-- The address of a glyph, `0x050 + 5 * b`; the whole byte is multiplied (42_index_memory.md rule R162). -/
def glyphAddress (b : Byte) : Word := BitVec.ofNat 16 Config.fontBase + 5 * b.toWord

/-- `I` as an address: a 16-bit unsigned number, never wrapped (rule R164). -/
def State.base (s : State) : Nat := s.i.toNat

/-- Hundreds, tens and ones of a byte (rule R163). -/
def bcdDigits (b : Byte) : List Byte :=
  [BitVec.ofNat 8 (b.toNat / 100), BitVec.ofNat 8 (b.toNat / 10 % 10), BitVec.ofNat 8 (b.toNat % 10)]

/-- The bytes `V[0]` to `V[x]` (rule R165). -/
def State.dumpBytes (s : State) (x : RegIdx) : List Byte := (regsUpTo x).map s.reg

/-- Load the given registers, each from the byte at `base` plus its number, in the order given (rule R166). -/
def State.loadRegs (m : Memory) (base : Nat) : List RegIdx → State → State
  | [], s => s
  | r :: rs, s => State.loadRegs m base rs (s.setReg r (m.read (base + r.val)))

end Sys2Proof.Machine
end

