-- ==== Sys2Proof/Machine/Flags.lean ====
section
/-! DEFINITION. Every flag computation of the machine: the only flag is `VF`, written as exactly 0 or 1 (10_state.md
rule R22). Each is computed from the values before the instruction. -/

namespace Sys2Proof.Machine

/-- The byte a flag writes. -/
def flagByte (b : Bool) : Byte := if b then 1 else 0

/-- Carry of ADD VX,VY: the integer sum is above 255 (41_alu.md rule R136). -/
def carryFlag (a b : Byte) : Byte := flagByte (decide (a.toNat + b.toNat > 255))

/-- Flag of SUB and SUBN, `a - b`: strictly greater, unsigned; equal operands give 0 (rules R137, R139). -/
def greaterFlag (a b : Byte) : Byte := flagByte (decide (a.toNat > b.toNat))

/-- Flag of SHR: bit 0 (rule R138). -/
def lowBitFlag (a : Byte) : Byte := flagByte (a.getLsbD 0)

/-- Flag of SHL: bit 7 (rule R140). -/
def highBitFlag (a : Byte) : Byte := flagByte (a.getLsbD 7)

/-- Write `VF`. -/
def State.setVF (s : State) (b : Byte) : State := s.setReg vf b

end Sys2Proof.Machine
end

