-- ==== Sys2Proof/Machine/Alu.lean ====
section
/-! DEFINITION. Register load, arithmetic, logic, shift and random instructions (41_alu.md). All arithmetic is unsigned
modulo 256 (rule R142). -/

namespace Sys2Proof.Machine

/-- Write `V[x]`, no flag, and go on. -/
def writeReg (x : RegIdx) (b : Byte) (s : State) : Result := completeSeq (s.setReg x b)

/-- The two writes of a flag-writing instruction in the order of its rule: `VF` first, then the result, which is
computed from the registers as the write of `VF` left them (rule R136, D18; log 12). -/
def writeFlagThenReg (flag : Byte) (x : RegIdx) (result : State → Byte) (s : State) : Result :=
  completeSeq ((s.setVF flag).setReg x (result (s.setVF flag)))

/-- LD VX,KK (rule R130). -/
def execLdVxKk (x : RegIdx) (kk : Byte) (s : State) : Result := writeReg x kk s

/-- ADD VX,KK: modulo 256, no flag (rule R131). -/
def execAddVxKk (x : RegIdx) (kk : Byte) (s : State) : Result := writeReg x (s.reg x + kk) s

/-- LD VX,VY (rule R132). -/
def execLdVxVy (x y : RegIdx) (s : State) : Result := writeReg x (s.reg y) s

/-- OR VX,VY (rule R133). -/
def execOrVxVy (x y : RegIdx) (s : State) : Result := writeReg x (s.reg x ||| s.reg y) s

/-- AND VX,VY (rule R134). -/
def execAndVxVy (x y : RegIdx) (s : State) : Result := writeReg x (s.reg x &&& s.reg y) s

/-- XOR VX,VY (rule R135). -/
def execXorVxVy (x y : RegIdx) (s : State) : Result := writeReg x (s.reg x ^^^ s.reg y) s

/-- ADD VX,VY: carry into VF, then the sum (rule R136). -/
def execAddVxVy (x y : RegIdx) (s : State) : Result :=
  writeFlagThenReg (carryFlag (s.reg x) (s.reg y)) x (fun t => t.reg x + t.reg y) s

/-- SUB VX,VY: VF is 1 iff VX > VY, then VX - VY (rule R137). -/
def execSubVxVy (x y : RegIdx) (s : State) : Result :=
  writeFlagThenReg (greaterFlag (s.reg x) (s.reg y)) x (fun t => t.reg x - t.reg y) s

/-- SHR VX: VF is bit 0, then a logical shift right by one; Y is ignored (rule R138). -/
def execShrVx (x : RegIdx) (s : State) : Result :=
  writeFlagThenReg (lowBitFlag (s.reg x)) x (fun t => t.reg x >>> 1) s

/-- SUBN VX,VY: VF is 1 iff VY > VX, then VY - VX (rule R139). -/
def execSubnVxVy (x y : RegIdx) (s : State) : Result :=
  writeFlagThenReg (greaterFlag (s.reg y) (s.reg x)) x (fun t => t.reg y - t.reg x) s

/-- SHL VX: VF is bit 7, then a shift left by one modulo 256; Y is ignored (rule R140). -/
def execShlVx (x : RegIdx) (s : State) : Result :=
  writeFlagThenReg (highBitFlag (s.reg x)) x (fun t => t.reg x <<< 1) s

/-- RND VX,KK: a fresh random byte AND KK (rule R143, D23; log 13). -/
def execRndVxKk (x : RegIdx) (kk : Byte) (s : State) : Result :=
  writeReg x (Config.randomByte s.draws &&& kk) (s.setDraws (s.draws + 1))

end Sys2Proof.Machine
end

