-- ==== Sys2Proof/Machine/Display.lean ====
section
/-! DEFINITION. Display instructions (43_display.md). -/

namespace Sys2Proof.Machine

/-- CLS: every pixel 0 (rule R180). -/
def execCls (s : State) : Result := completeSeq (s.setFb Framebuffer.blank)

/-- The framebuffer and the collision after drawing `n` sprite bytes from `I` on at (V[x], V[y]), both read once
before any write (rule R181). -/
def State.drawn (s : State) (x y : RegIdx) (n : Nat) : Canvas :=
  Canvas.drawRows s.mem s.base (s.reg x).toNat (s.reg y).toNat (List.range n) ⟨s.fb, false⟩

/-- DRW VX,VY,N: XOR the sprite in, then `VF` is the collision (rules R181 to R184; logs 10, 11). -/
def execDrwVxVyN (x y : RegIdx) (n : Nat) (s : State) : Result :=
  guardRange s.base n s
    (completeSeq ((s.setFb (s.drawn x y n).fb).setVF (flagByte (s.drawn x y n).collision)))

end Sys2Proof.Machine
end

