-- ==== Sys2Proof/Machine/Flow.lean ====
section
/-! DEFINITION. Control-transfer instructions (40_flow_control.md). Each meaning is the cycle from EXECUTE on:
`complete`, `completeSkip` and `raise` end it. -/

namespace Sys2Proof.Machine

/-- RET: pop an address into PC; StackUnderflow if the stack is empty (rule R110). -/
def execRet (s : State) : Result :=
  match s.pop? with
  | some (a, s') => complete a s'
  | none => raise (.stackUnderflow s.pc) s

/-- JP NNN (rule R111). -/
def execJpNnn (nnn : BitVec 12) (s : State) : Result := complete (addrWord nnn) s

/-- A call with `STACK_DEPTH` as an argument: push the address of the next instruction, then jump; StackOverflow if
the stack is full (rule R112). -/
def callWith (depth : Option Nat) (nnn : BitVec 12) (s : State) : Result :=
  match s.push? depth (s.pc + 2) with
  | some s' => complete (addrWord nnn) s'
  | none => raise (.stackOverflow s.pc) s

/-- CALL NNN (rule R112). -/
def execCallNnn (nnn : BitVec 12) (s : State) : Result := callWith stackDepth nnn s

/-- SE VX,KK (rule R113). -/
def execSeVxKk (x : RegIdx) (kk : Byte) (s : State) : Result := completeSkip (s.reg x == kk) s

/-- SNE VX,KK (rule R114). -/
def execSneVxKk (x : RegIdx) (kk : Byte) (s : State) : Result := completeSkip (s.reg x != kk) s

/-- SE VX,VY (rule R115). -/
def execSeVxVy (x y : RegIdx) (s : State) : Result := completeSkip (s.reg x == s.reg y) s

/-- SNE VX,VY (rule R116). -/
def execSneVxVy (x y : RegIdx) (s : State) : Result := completeSkip (s.reg x != s.reg y) s

/-- JP V0,NNN (rule R118). -/
def execJpV0Nnn (nnn : BitVec 12) (s : State) : Result := complete (offsetTarget s nnn) s

end Sys2Proof.Machine
end

