-- ==== Sys2Proof/Machine/IndexMemory.lean ====
section
/-! DEFINITION. Index-register and memory instructions (42_index_memory.md). None of the last three changes `I` (D20;
log 22); each checks its bounds before any byte moves (20_memory.md rule R56; log 4). -/

namespace Sys2Proof.Machine

/-- Write `I`, no flag, and go on. -/
def writeIndex (a : Word) (s : State) : Result := completeSeq (s.setI a)

/-- Store bytes from `I` on, and go on; MemOutOfBounds if one of them lies above 0xFFF. -/
def storeAtI (bytes : List Byte) (s : State) : Result :=
  guardRange s.base bytes.length s (completeSeq (s.setMem (s.mem.writeBytes s.base bytes)))

/-- LD I,NNN (rule R160). -/
def execLdINnn (nnn : BitVec 12) (s : State) : Result := writeIndex (addrWord nnn) s

/-- ADD I,VX: modulo 2^16, no flag (rule R161, D16; log 22). -/
def execAddIVx (x : RegIdx) (s : State) : Result := writeIndex (s.i + (s.reg x).toWord) s

/-- LD F,VX: the address of a glyph (rule R162). -/
def execLdFVx (x : RegIdx) (s : State) : Result := writeIndex (glyphAddress (s.reg x)) s

/-- LD B,VX: the three decimal digits of VX at I, I+1, I+2 (rule R163). -/
def execLdBVx (x : RegIdx) (s : State) : Result := storeAtI (bcdDigits (s.reg x)) s

/-- LD [I],VX: `V[0]` to `V[X]` from I on (rule R165). -/
def execLdMemVx (x : RegIdx) (s : State) : Result := storeAtI (s.dumpBytes x) s

/-- LD VX,[I]: `V[0]` to `V[X]` from the bytes from I on (rule R166). -/
def execLdVxMem (x : RegIdx) (s : State) : Result :=
  guardRange s.base (x.val + 1) s (completeSeq (State.loadRegs s.mem s.base (regsUpTo x) s))

end Sys2Proof.Machine
end

