-- ==== Sys2Proof/Machine/InputTimers.lean ====
section
/-! DEFINITION. Input and timer instructions (44_input_timers.md). SKP and SKNP do not consult `PRESSED` (D7; log
20). -/

namespace Sys2Proof.Machine

/-- SKP VX: skip if VX equals the latched key code, all eight bits (rule R200). -/
def execSkpVx (x : RegIdx) (s : State) : Result := completeSkip (s.reg x == s.key) s

/-- SKNP VX (rule R201). -/
def execSknpVx (x : RegIdx) (s : State) : Result := completeSkip (s.reg x != s.key) s

/-- LD VX,DT: the value before this cycle's decrement (rule R204). -/
def execLdVxDt (x : RegIdx) (s : State) : Result := writeReg x s.dt s

/-- LD VX,K: take the key code if the pressed flag is set; otherwise a complete cycle that leaves `PC` where it is
(rules R202, R203). -/
def execLdVxK (x : RegIdx) (s : State) : Result :=
  if s.pressed then writeReg x s.key s else complete s.pc s

/-- LD DT,VX: decremented in the same cycle (rule R205). -/
def execLdDtVx (x : RegIdx) (s : State) : Result := completeSeq (s.setDt (s.reg x))

/-- LD ST,VX (rule R206). -/
def execLdStVx (x : RegIdx) (s : State) : Result := completeSeq (s.setSt (s.reg x))

end Sys2Proof.Machine
end

