-- ==== Sys2Proof/Machine/Cycle.lean ====
section
/-! DEFINITION. One cycle (45_cycle_driver_and_host.md rules R220 and R221): FETCH, DECODE, and the instruction's own
phases. -/

namespace Sys2Proof.Machine

/-- Phase FETCH: the big-endian word at `PC`; `none` where the second byte would lie past the end of memory, tested
before anything is read (rule R221, 60_exceptions.md rule R261, 20_memory.md rules R52, R55). -/
def State.fetch? (s : State) : Option Word :=
  if Config.memSize - 1 ≤ s.pc.toNat then none
  else some (wordOfBytes (s.mem.read s.pc.toNat) (s.mem.read (s.pc.toNat + 1)))

/-- `Step`, one cycle (rule R220), whatever `RUN` is. Before the first `Initialize` it has no meaning (10_state.md
rule R39). -/
def cycle (s : State) : Result :=
  if s.initialised then
    match s.fetch? with
    | none => raise (.pcOutOfBounds s.pc) s
    | some w =>
      match decodeWord w with
      | none => raise (.unknownOpcode w s.pc) s
      | some i => exec i s
  else .refused .notInitialised

/-- The state with the two bytes of `w` where the next cycle fetches. -/
def State.withWordAtPc (s : State) (w : Word) : State := s.putPair s.pc.toNat (highByte w) (lowByte w)

end Sys2Proof.Machine
end

