-- ==== Sys2Proof/Machine/Step.lean ====
section
/-! DEFINITION. The step of the machine: one cycle of the core, which the host's `step` command and continuous
execution both perform (45_cycle_driver_and_host.md rules R220, R228, R233; log 18). -/

namespace Sys2Proof.Machine

/-- One cycle. -/
def step (s : State) : Host.Outcome State Fault Refusal := cycle s

/-- `s` with an instruction word stored where `step` fetches next, in memory order (20_memory.md rule R52). -/
def State.withFetchWord (s : State) (nbits w : Nat) : State := s.withWordAtPc (tableWord nbits w)

end Sys2Proof.Machine
end

