-- ==== Sys2Proof/Machine/HostCommands.lean ====
section
/-! DEFINITION. The host interface at transaction level (00_scope.md rules R7 and R10, 45_cycle_driver_and_host.md
rules R226 to R238): `Initialize` and the hardware reset, the eight commands, continuous execution, and schedules of
them with the cycles. Every command is one atomic transition. -/

namespace Sys2Proof.Machine

/-- `Initialize`, legal from any state (70_reset_and_hazards.md rule R300). `RUN` and `CLOCK_HZ` are not changed; it
emits nothing (D29) and does not reseed the random source (10_state.md rule R36; log 13). -/
def State.initialise (s : State) : State :=
  { State.reset with
    run := s.run
    clockHz := s.clockHz
    draws := s.draws
    notes := s.notes }

/-- A hardware reset input: `Initialize`, and `RUN` paused (rule R302). -/
def State.hardwareReset (s : State) : State := s.initialise.setRun .paused

/-- `loadRom`, with `ROM_OVERFLOW_POLICY` as an argument: the bytes from 0x200 on, and nothing else (rules R231,
R232). -/
def State.loadRomWith (policy : RomOverflowPolicy) (bytes : List Byte) (s : State) : State :=
  if bytes.length ≤ Config.romCapacity then s.setMem (s.mem.writeBytes Config.progBase bytes)
  else match policy with
    | .truncate => s.setMem (s.mem.writeBytes Config.progBase (bytes.take Config.romCapacity))
    | .ignore => s

/-- `loadRom` (log 14). -/
def State.loadRom (bytes : List Byte) (s : State) : State := s.loadRomWith Config.romOverflowPolicy bytes

/-- `pause` (rule R227): a halted machine stays halted. -/
def State.pause (s : State) : State := s.setRun .paused

/-- `setKey`: `KEY <- trunc_8(code)`, `PRESSED` is not set (rule R236). -/
def State.latchKey (code : Nat) (s : State) : State := s.setKey (BitVec.ofNat 8 code)

/-- `setKeyPressed` (rule R237). -/
def State.latchPressed (b : Bool) (s : State) : State := s.setPressed b

/-- `setClockFrequency`: a frequency that is not positive is ignored (rule R238). -/
def State.setClockFrequency (hz : Rat) (s : State) : State := if 0 < hz then s.setClockHz hz else s

/-- The eight host commands (rule R7). -/
inductive Command where
  | initialise
  | loadRom (bytes : List Byte)
  | step
  | start
  | pause
  | setKey (code : Nat)
  | setKeyPressed (b : Bool)
  | setClockFrequency (hz : Rat)
  deriving DecidableEq, Repr

/-- Perform one host command. -/
def perform (c : Command) (s : State) : Result :=
  match c with
  | .initialise => .next s.initialise
  | .loadRom bytes => .next (s.loadRom bytes)
  | .step => step s
  | .start => .next s.start
  | .pause => .next s.pause
  | .setKey code => .next (s.latchKey code)
  | .setKeyPressed b => .next (s.latchPressed b)
  | .setClockFrequency hz => .next (s.setClockFrequency hz)

/-- Continuous execution: a cycle while running; while paused or halted the core does nothing of its own accord
(rules R228, R267). -/
def tick (s : State) : Result :=
  match s.run with
  | .running => step s
  | .paused => .next s

/-- What can happen at a cycle boundary: the core's own next cycle, a host command, or the reset input. -/
inductive Event where
  | tick
  | command (c : Command)
  | hardwareReset
  deriving DecidableEq, Repr

/-- One atomic transition (rule R10). -/
def transition (e : Event) (s : State) : Result :=
  match e with
  | .tick => tick s
  | .command c => perform c s
  | .hardwareReset => .next s.hardwareReset

/-- A schedule of transitions, in order: every interleaving of cycles and commands at whole-cycle granularity is a
list of events (rules R10, R37; log 19). -/
def runSchedule : List Event → State → Result
  | [], s => .next s
  | e :: es, s =>
    match transition e s with
    | .next t => runSchedule es t
    | .fault f => .fault f
    | .refused r => .refused r

/-- Whether a transition performs a cycle. -/
def Event.runsCycle (e : Event) (s : State) : Bool :=
  match e with
  | .tick => decide (s.run = .running)
  | .command .step => true
  | .command _ => false
  | .hardwareReset => false

/-- The notifications a transition emits: those of its cycle; a command emits nothing of its own (rules R225, R230,
R231, D29; log 23). -/
def emitted (e : Event) (s : State) : List Notification :=
  if e.runsCycle s then
    match transition e s with
    | .next t => t.notes
    | .fault _ => []
    | .refused _ => []
  else []

/-! ## Endless schedules and fairness (70_reset_and_hazards.md rule R316) -/

/-- An endless schedule: what happens at each cycle boundary, in order. Like every schedule it is no part of the state
(10_state.md rule R37). -/
abbrev Schedule := Nat → Event

/-- Its first `n` events, one of the finite schedules `runSchedule` takes. -/
def Schedule.upTo (es : Schedule) (n : Nat) : List Event := (List.range n).map es

/-- Where the schedule has brought the machine from `s` after `n` events. -/
def Schedule.outcomeAt (es : Schedule) (s : State) (n : Nat) : Result := runSchedule (es.upTo n) s

/-- Event number `n` performs a cycle. -/
def Schedule.CycleAt (es : Schedule) (s : State) (n : Nat) : Prop :=
  ∃ t, es.outcomeAt s n = .next t ∧ (es n).runsCycle t = true

/-- The machine is paused, or halted, after `n` events. -/
def Schedule.PausedAt (es : Schedule) (s : State) (n : Nat) : Prop :=
  ∃ t, es.outcomeAt s n = .next t ∧ t.run = .paused

/-- FAIRNESS, all that is left of the cadence: while the machine runs and no fault occurs, another cycle eventually
happens. After any number of events that leave the machine running, a cycle comes, unless the machine is paused before
it (rule R316, 45_cycle_driver_and_host.md rule R228; log 28). -/
def Schedule.Fair (es : Schedule) (s : State) : Prop :=
  ∀ n t, es.outcomeAt s n = .next t → t.run = .running → ∃ m, n ≤ m ∧ (es.CycleAt s m ∨ es.PausedAt s m)

end Sys2Proof.Machine
end

