-- ==== Sys2Proof/Safety.lean ====
section
/-! DEFINITION. The terms claims are stated in: what a halted machine is, which cycle raised a fault, what a run without
a fault is, the invariant of the machine, the frames "this store is as it was", and what each instruction reaches. -/

namespace Sys2Proof

/-! ## What each instruction reaches, as the spec lists it -/

/-- Instructions that write `Mem` (20_memory.md rule R64). -/
def Instr.storesMemory : Instr → Bool
  | .ldBVx _ => true
  | .ldMemVx _ => true
  | _ => false

/-- Instructions that write `FB` (rule R64). -/
def Instr.writesScreen : Instr → Bool
  | .cls => true
  | .drwVxVyN _ _ _ => true
  | _ => false

/-- Instructions that push or pop `STACK` (rule R64). -/
def Instr.usesStack : Instr → Bool
  | .callNnn _ => true
  | .ret => true
  | _ => false

/-- Instructions that write `I` (10_state.md rule R23). -/
def Instr.writesIndex : Instr → Bool
  | .ldINnn _ => true
  | .addIVx _ => true
  | .ldFVx _ => true
  | _ => false

/-- Instructions that write `DT` (10_state.md rule R35), beside the decrement of every cycle. -/
def Instr.writesDelay : Instr → Bool
  | .ldDtVx _ => true
  | _ => false

/-- Instructions that write `ST` (rule R35). -/
def Instr.writesSound : Instr → Bool
  | .ldStVx _ => true
  | _ => false

/-- Instructions that draw a random byte (rule R36). -/
def Instr.drawsRandom : Instr → Bool
  | .rndVxKk _ _ => true
  | _ => false

/-- Instructions that write `VF` as a flag (rule R22). -/
def Instr.writesFlag : Instr → Bool
  | .addVxVy _ _ => true
  | .subVxVy _ _ => true
  | .subnVxVy _ _ => true
  | .shrVx _ => true
  | .shlVx _ => true
  | .drwVxVyN _ _ _ => true
  | _ => false

/-- The registers an instruction names as its destination (files 41, 42 and 44); its flag is apart. -/
def Instr.destinations : Instr → List RegIdx
  | .ldVxKk x _ => [x]
  | .addVxKk x _ => [x]
  | .ldVxVy x _ => [x]
  | .orVxVy x _ => [x]
  | .andVxVy x _ => [x]
  | .xorVxVy x _ => [x]
  | .addVxVy x _ => [x]
  | .subVxVy x _ => [x]
  | .subnVxVy x _ => [x]
  | .shrVx x => [x]
  | .shlVx x => [x]
  | .rndVxKk x _ => [x]
  | .ldVxDt x => [x]
  | .ldVxK x => [x]
  | .ldVxMem x => Machine.regsUpTo x
  | _ => []

/-- How many bytes from `I` on an instruction touches (20_memory.md rule R56). -/
def Instr.accessLength : Instr → Nat
  | .drwVxVyN _ _ n => n
  | .ldBVx _ => 3
  | .ldMemVx x => x.val + 1
  | .ldVxMem x => x.val + 1
  | _ => 0

end Sys2Proof

namespace Sys2Proof.Machine

/-- Halted: paused because of a fault (10_state.md rule R33, 60_exceptions.md rule R267). -/
def State.Halted (s : State) : Prop := s.run = .paused ∧ s.haltCause ≠ .none

/-- The fault the cycle that led here raised, if it raised one: its only notification is the log message that
identifies it (60_exceptions.md rule R266, 45_cycle_driver_and_host.md rule R242). -/
def State.lastFault (s : State) : Option Fault :=
  match s.notes with
  | [.log f] => some f
  | _ => none

/-- A run of `k` cycles, none of which raises a fault: the premise a claim about a program takes or proves
(60_exceptions.md rule R270). -/
def SafeRun : Nat → State → State → Prop
  | 0, s, t => t = s
  | k + 1, s, t => ∃ u, step s = .next u ∧ u.lastFault = none ∧ SafeRun k u t

/-- What holds in every state the machine can reach: memory in canonical form; `PC` at most 0x10FE and every return
address at most 0x1000 (10_state.md rule R25); a running machine is not halted (rule R33); the clock frequency is
positive (rule R34). -/
def State.Inv (s : State) : Prop :=
  s.mem.wf = true ∧ s.pc.toNat ≤ 0x10FE ∧ (∀ a ∈ s.stack, a.toNat ≤ 0x1000) ∧
    (s.run = .running → s.haltCause = .none) ∧ 0 < s.clockHz

/-! ## Frames -/

/-- Every byte of memory reads as before. -/
def SameMemory (s t : State) : Prop := ∀ a, t.mem.read a = s.mem.read a

/-- Every byte of memory outside the `n` bytes from `base` on reads as before. -/
def SameMemoryOutside (base n : Nat) (s t : State) : Prop :=
  ∀ a, a < base ∨ base + n ≤ a → t.mem.read a = s.mem.read a

/-- Every pixel is as before. -/
def SameScreen (s t : State) : Prop := ∀ x y, t.fb.pixel x y = s.fb.pixel x y

/-- Every register not named is as before. -/
def SameRegsBut (named : List RegIdx) (s t : State) : Prop := ∀ r, r ∉ named → t.reg r = s.reg r

/-- `I`, the call stack and the sound timer are as before, and no random byte was drawn. -/
def SameIndexStackSound (s t : State) : Prop :=
  t.i = s.i ∧ t.stack = s.stack ∧ t.st = s.st ∧ t.draws = s.draws

/-- What every completed cycle does beside its instruction's own writes (45_cycle_driver_and_host.md rules R224 and
R229, 10_state.md rules R33 to R35): the latch's pressed flag is cleared and its key code stays; run state, halt cause
and clock frequency stay. -/
def CycleEnd (s t : State) : Prop :=
  t.pressed = false ∧ t.key = s.key ∧ t.run = s.run ∧ t.haltCause = s.haltCause ∧ t.clockHz = s.clockHz ∧
    t.initialised = s.initialised

/-- One count of a timer: down by one, never below 0 (rule R222). -/
def CountsDown (before after : Byte) : Prop := after.toNat = before.toNat - 1

/-- The frame of an instruction that writes at most the named registers and `PC`: everything else is as before but
for the end of the cycle. -/
def WritesOnlyRegs (named : List RegIdx) (s t : State) : Prop :=
  SameRegsBut named s t ∧ SameMemory s t ∧ SameScreen s t ∧ SameIndexStackSound s t ∧ CountsDown s.dt t.dt ∧
    CycleEnd s t

/-- The value `PC` holds after a completed cycle (45_cycle_driver_and_host.md rule R223): a target, `pc + 4` for a
taken skip, `pc` for a key wait without a key, else `pc + 2`. -/
def nextPcOf (i : Instr) (s : State) : Word :=
  match i with
  | .ret => s.stack.headD s.pc
  | .jpNnn nnn => nnn.setWidth 16
  | .callNnn nnn => nnn.setWidth 16
  | .jpV0Nnn nnn => (s.reg 0).setWidth 16 + nnn.setWidth 16
  | .seVxKk x kk => if s.reg x = kk then s.pc + 4 else s.pc + 2
  | .sneVxKk x kk => if s.reg x ≠ kk then s.pc + 4 else s.pc + 2
  | .seVxVy x y => if s.reg x = s.reg y then s.pc + 4 else s.pc + 2
  | .sneVxVy x y => if s.reg x ≠ s.reg y then s.pc + 4 else s.pc + 2
  | .skpVx x => if s.reg x = s.key then s.pc + 4 else s.pc + 2
  | .sknpVx x => if s.reg x ≠ s.key then s.pc + 4 else s.pc + 2
  | .ldVxK _ => if s.pressed then s.pc + 2 else s.pc
  | _ => s.pc + 2

/-- The bit a sprite of `n` rows has at pixel (px, py), in closed form (43_display.md rules R181, R182): row `py - y0`
is the byte at `I + (py - y0)`, column `px - x0` is its bit `7 - (px - x0)`, and there is no bit outside the sprite. -/
def spriteBit (s : State) (x y : RegIdx) (n px py : Nat) : Bool :=
  decide ((s.reg x).toNat ≤ px ∧ px ≤ (s.reg x).toNat + 7 ∧ (s.reg y).toNat ≤ py ∧ py < (s.reg y).toNat + n) &&
    (s.mem.read (s.i.toNat + (py - (s.reg y).toNat))).getLsbD (7 - (px - (s.reg x).toNat))

/-- The word at `PC` in memory, big-endian (20_memory.md rule R52). -/
def State.wordAtPc (s : State) : Word := wordOfBytes (s.mem.read s.pc.toNat) (s.mem.read (s.pc.toNat + 1))

/-- The three notifications of a completed cycle, of its final state and in their fixed order (rule R225). -/
def NotifiedInOrder (t : State) : Prop :=
  t.notes = [.frame t.fb, .registers t.v t.i t.pc t.mem, .endOfCycle]

/-- The state a fault leaves (60_exceptions.md rule R266): everything the cycle found, but `RUN` paused, `HALT_CAUSE`
the fault's, and one log notification. -/
def HaltedBy (f : Fault) (s t : State) : Prop :=
  t.run = .paused ∧ t.haltCause = f.cause ∧ t.notes = [.log f] ∧
    t.v = s.v ∧ t.i = s.i ∧ t.pc = s.pc ∧ t.stack = s.stack ∧ t.dt = s.dt ∧ t.st = s.st ∧ t.mem = s.mem ∧
    t.fb = s.fb ∧ t.key = s.key ∧ t.pressed = s.pressed ∧ t.clockHz = s.clockHz ∧
    t.initialised = s.initialised ∧ t.draws = s.draws

end Sys2Proof.Machine
end

