-- ==== Sys2Proof/Certificates/Slice0/Obligations.lean ====
section
/-! DEFINITION. The statements for the provers. Each docstring names the rule of spec/ it formalises; where a clause
rests on the spec's own decision (D<n>) or on a log entry, the docstring says so. -/

open Sys2Proof Sys2Proof.Machine

/-! ## Encoding and decoding (30_encoding.md) -/

/-- Decode and encode agree for every well-formed instruction, every operand at every value, and under both values of
`ALIAS_DECODE` (rules R86, R88, R93). The numbers of the map are the spec's general knowledge (D12, G1; log 8). -/
def Obligations.DecodeEncodeRoundTrip : Prop :=
  ∀ (p : AliasDecode) (i : Instr), i.WellFormed → decodeWith p (encode i) = some i

/-- The word with every bit its instruction does not examine or use set to 0 (rule R88): X in group 0x0, N in groups
0x5 and 0x9, Y in the two shifts. -/
def canonicalWord (w : Word) : Word :=
  if fieldG w = 0x0 then w &&& 0xF0FF
  else if fieldG w = 0x5 ∨ fieldG w = 0x9 then w &&& 0xFFF0
  else if fieldG w = 0x8 ∧ (fieldN w = 0x6 ∨ fieldN w = 0xE) then w &&& 0xFF0F
  else w

/-- Encoding what a word decodes to gives the word's canonical encoding: decoding loses no bit but those rule R88
names, and what it gives is well-formed. `ALIAS_DECODE` is at its default (D11; log 7). -/
def Obligations.EncodeOfDecodeIsCanonical : Prop :=
  ∀ (w : Word) (i : Instr), decodeWord w = some i → i.WellFormed ∧ encode i = canonicalWord w

/-- The decode procedure of rule R93 and the mask-and-match map of rule R86 say the same: 34 rows, mutually exclusive;
a decoded word selects the row of its instruction; a word decodes to nothing iff it selects no row. -/
def Obligations.DecodeMatchesOpcodeMap : Prop :=
  opcodeRows.length = 34 ∧
  (∀ r ∈ opcodeRows, ∀ q ∈ opcodeRows, ∀ w : Word, r.selects w = true → q.selects w = true → r = q) ∧
  (∀ (w : Word) (i : Instr), decodeWord w = some i →
    ∃ r ∈ opcodeRows, r.mnemonic = i.mnemonic ∧ r.selects w = true) ∧
  (∀ w : Word, decodeWord w = none ↔ ∀ r ∈ opcodeRows, r.selects w = false)

/-- The unknown opcodes are exactly the four classes of rule R89. The numbers rest on D12 and G1 (log 8), the default
masks on D11 (log 7). -/
def Obligations.UnknownOpcodesAreExactly : Prop :=
  ∀ w : Word, decodeWord w = none ↔
    (fieldG w = 0x0 ∧ fieldKK w ≠ 0xE0 ∧ fieldKK w ≠ 0xEE) ∨
    (fieldG w = 0x8 ∧ fieldN w ∈ [0x8, 0x9, 0xA, 0xB, 0xC, 0xD, 0xF]) ∨
    (fieldG w = 0xE ∧ fieldKK w ≠ 0x9E ∧ fieldKK w ≠ 0xA1) ∨
    (fieldG w = 0xF ∧ fieldKK w ∉ ([0x07, 0x0A, 0x15, 0x18, 0x1E, 0x29, 0x33, 0x55, 0x65] : List Byte))

/-- With `ALIAS_DECODE = fault` exactly the non-canonical words of groups 0x0, 0x5 and 0x9 stop decoding, and every
other word decodes as before (rule R88). -/
def Obligations.AliasFaultRefusesOnlyNonCanonical : Prop :=
  ∀ (w : Word) (i : Instr), decodeWith .fault w = some i ↔
    decodeWith .execute w = some i ∧ (fieldG w = 0x0 → fieldX w = 0) ∧
      (fieldG w = 0x5 ∨ fieldG w = 0x9 → fieldN w = 0)

/-- The four words the source shows (rule R87) and one of each other family (95_test_vectors.md), read from their bytes
in memory order; a sanity statement. The numbers of all but 0x600A, 0xA250, 0xD005 and 0x00E0 rest on the spec's
general knowledge (D12, G1; log 8), and that 0x0000 and 0x8128 are unknown rests on the same map. -/
def Obligations.SampleWordsDecode : Prop :=
  decodeTableWord 16 0x600A = some (.ldVxKk 0 0x0A) ∧ decodeTableWord 16 0xA250 = some (.ldINnn 0x250) ∧
  decodeTableWord 16 0xD005 = some (.drwVxVyN 0 0 5) ∧ decodeTableWord 16 0x00E0 = some .cls ∧
  decodeTableWord 16 0x1234 = some (.jpNnn 0x234) ∧ decodeTableWord 16 0x3412 = some (.seVxKk 4 0x12) ∧
  decodeTableWord 16 0x8124 = some (.addVxVy 1 2) ∧ decodeTableWord 16 0xE29E = some (.skpVx 2) ∧
  decodeTableWord 16 0xF255 = some (.ldMemVx 2) ∧ decodeTableWord 16 0x0000 = none ∧
  decodeTableWord 16 0x8128 = none

/-! ## The cycle (45_cycle_driver_and_host.md) -/

/-- A step runs the decoded instruction: in an initialised machine whose `PC` is in range, when the two bytes at `PC`,
big-endian, decode to `i`, the step is `exec i` (rules R220, R221, 20_memory.md rule R52). Nothing is added around
`exec`: it holds the phases from EXECUTE to NOTIFY. -/
def Obligations.StepRunsDecodedInstruction : Prop :=
  ∀ (s : State) (i : Instr), s.initialised = true → s.pc.toNat < 0xFFF → decodeWord s.wordAtPc = some i →
    step s = exec i s

/-- Fetch coherence (20_memory.md rule R62): an instruction word just stored at `PC` is what the next step fetches and
runs, and storing it changes no byte outside those two. -/
def Obligations.StoredInstructionIsFetchedNext : Prop :=
  ∀ (s : State) (w : Nat) (i : Instr), s.initialised = true → s.pc.toNat < 0xFFF →
    decodeTableWord 16 w = some i →
    step (s.withFetchWord 16 w) = exec i (s.withFetchWord 16 w) ∧
      SameMemoryOutside s.pc.toNat 2 s (s.withFetchWord 16 w)

/-- Every cycle of an initialised machine either completes or faults synchronously (60_exceptions.md rule R271): the
step always answers a next state, which either ends the cycle in order or is halted by one fault. That a fault is a
next state is the model's choice (log 1). -/
def Obligations.EveryCycleCompletesOrFaults : Prop :=
  ∀ s : State, s.initialised = true →
    ∃ t, step s = .next t ∧
      ((t.lastFault = none ∧ CycleEnd s t ∧ NotifiedInOrder t) ∨ ∃ f, t.lastFault = some f ∧ HaltedBy f s t)

/-- A cycle before the first `Initialize` is refused (10_state.md rule R39, the spec's decision D2; log 17). -/
def Obligations.UninitialisedCycleIsRefused : Prop :=
  ∀ s : State, s.initialised = false → step s = .refused .notInitialised

/-- The latch phase (rule R224): a completed cycle clears `PRESSED`, whatever the instruction, and keeps `KEY`; a cycle
that faults changes neither. -/
def Obligations.LatchPhaseOfEveryCycle : Prop :=
  ∀ s t : State, step s = .next t →
    (t.lastFault = none → t.pressed = false ∧ t.key = s.key) ∧
    (t.lastFault ≠ none → t.pressed = s.pressed ∧ t.key = s.key)

/-- The timers count cycles (rules R222, 60_exceptions.md rule R273): a completed cycle counts `DT` down once, from the
value LD DT,VX wrote if it is one; `ST` changes only by LD ST,VX (`ST_DECREMENT` at its default, D17; log 6). -/
def Obligations.TimersCountCompletedCycles : Prop :=
  ∀ (i : Instr) (s t : State), exec i s = .next t → t.lastFault = none →
    (i.writesDelay = false → CountsDown s.dt t.dt) ∧
    (∀ x, i = .ldDtVx x → CountsDown (s.reg x) t.dt) ∧
    (i.writesSound = false → t.st = s.st) ∧
    (∀ x, i = .ldStVx x → t.st = s.reg x)

/-- The program-counter rule (rule R223 and 40_flow_control.md rule R117, net effects by D8; log 21). -/
def Obligations.NextPcOfEveryInstruction : Prop :=
  ∀ (i : Instr) (s t : State), exec i s = .next t → t.lastFault = none → t.pc = nextPcOf i s

/-- Which instruction reaches which store (20_memory.md rule R64, 10_state.md rules R23, R35, R36): an instruction
outside each list leaves that store as it was, whether its cycle completes or faults. -/
def Obligations.OnlyListedInstructionsReachAStore : Prop :=
  ∀ (i : Instr) (s t : State), exec i s = .next t →
    (i.storesMemory = false → SameMemory s t) ∧
    (i.writesScreen = false → SameScreen s t) ∧
    (i.usesStack = false → t.stack = s.stack) ∧
    (i.writesIndex = false → t.i = s.i) ∧
    (i.drawsRandom = false → t.draws = s.draws)

/-- The register frame of every instruction (10_state.md rules R21, R22): only its destinations change, and `VF` as a
flag only by ADD VX,VY, SUB, SUBN, SHR, SHL and DRW, each of which leaves 0 or 1 there when `VF` is not its
destination. -/
def Obligations.RegisterFrameOfEveryInstruction : Prop :=
  ∀ (i : Instr) (s t : State), exec i s = .next t →
    (∀ r, r ∉ i.destinations → (r ≠ vf ∨ i.writesFlag = false) → t.reg r = s.reg r) ∧
    (t.lastFault = none → i.writesFlag = true → vf ∉ i.destinations → t.reg vf = 0 ∨ t.reg vf = 1)

/-- A program cannot tell whether it is single-stepped (45_cycle_driver_and_host.md rule R233, 60_exceptions.md rule
R276): the step does not read `RUN` or `HALT_CAUSE`. With other values of the two it reaches the same state but for
them. -/
def Obligations.StepIgnoresRunState : Prop :=
  ∀ (s t : State) (r : RunState) (c : HaltCause), step s = .next t →
    ∃ u, step ((s.setRun r).setHaltCause c) = .next u ∧ (u.setRun t.run).setHaltCause t.haltCause = t

/-- Nothing reads the sound timer (10_state.md rule R28, 44_input_timers.md rule R206): with another value of it the
step reaches the same state but for it. The defaults of D17 apply (log 6). -/
def Obligations.SoundTimerIsUnobserved : Prop :=
  ∀ (s t : State) (b : Byte), step s = .next t → ∃ c, step (s.setSt b) = .next (t.setSt c)

/-! ## Control transfer (40_flow_control.md) -/

/-- JP NNN and JP V0,NNN (rules R111, R118): every target is taken as it is, the sum is not reduced. -/
def Obligations.JumpResults : Prop :=
  ∀ (nnn : BitVec 12) (s : State),
    (∃ t, exec (.jpNnn nnn) s = .next t ∧ t.pc.toNat = nnn.toNat ∧ WritesOnlyRegs [] s t) ∧
    (∃ t, exec (.jpV0Nnn nnn) s = .next t ∧ t.pc.toNat = (s.reg 0).toNat + nnn.toNat ∧ WritesOnlyRegs [] s t)

/-- SE and SNE with a constant and with a register (rules R113 to R116). -/
def Obligations.SkipResults : Prop :=
  ∀ (x y : RegIdx) (kk : Byte) (s : State),
    (∃ t, exec (.seVxKk x kk) s = .next t ∧ t.pc = (if s.reg x = kk then s.pc + 4 else s.pc + 2) ∧
      WritesOnlyRegs [] s t) ∧
    (∃ t, exec (.sneVxKk x kk) s = .next t ∧ t.pc = (if s.reg x ≠ kk then s.pc + 4 else s.pc + 2) ∧
      WritesOnlyRegs [] s t) ∧
    (∃ t, exec (.seVxVy x y) s = .next t ∧ t.pc = (if s.reg x = s.reg y then s.pc + 4 else s.pc + 2) ∧
      WritesOnlyRegs [] s t) ∧
    (∃ t, exec (.sneVxVy x y) s = .next t ∧ t.pc = (if s.reg x ≠ s.reg y then s.pc + 4 else s.pc + 2) ∧
      WritesOnlyRegs [] s t)

/-- CALL NNN (rule R112) on the unbounded stack of the default (D14; log 5): it always completes, pushes the address of
the next instruction (D8; log 21) and jumps. -/
def Obligations.CallResult : Prop :=
  ∀ (nnn : BitVec 12) (s : State),
    ∃ t, exec (.callNnn nnn) s = .next t ∧ t.pc.toNat = nnn.toNat ∧
      WritesOnlyRegs [] (s.setStack ((s.pc + 2) :: s.stack)) t

/-- RET on a stack that is not empty (rule R110): the newest address goes to `PC` unchanged. -/
def Obligations.ReturnResult : Prop :=
  ∀ (a : Word) (rest : List Word) (s : State), s.stack = a :: rest →
    ∃ t, exec .ret s = .next t ∧ t.pc = a ∧ WritesOnlyRegs [] (s.setStack rest) t

/-- RET on an empty stack raises StackUnderflow (rules R110, 60_exceptions.md rules R263, R266). The fault and its
effect are the spec's decisions D13 and D21 (logs 2, 3). -/
def Obligations.ReturnOnEmptyStackHalts : Prop :=
  ∀ s : State, s.stack = [] → ∃ t, exec .ret s = .next t ∧ HaltedBy (.stackUnderflow s.pc) s t

/-- Two steps: a CALL and, at its target, a RET come back to the instruction after the call with the stack as it was
(rule R112, the source's own test), provided the target is in range and the word there is a RET. -/
def Obligations.CallThenReturnComesBack : Prop :=
  ∀ (nnn : BitVec 12) (s t : State), s.initialised = true → s.pc.toNat < 0xFFF →
    decodeWord s.wordAtPc = some (.callNnn nnn) → nnn.toNat < 0xFFF →
    decodeWord (wordOfBytes (s.mem.read nnn.toNat) (s.mem.read (nnn.toNat + 1))) = some .ret →
    step s = .next t → ∃ u, step t = .next u ∧ u.pc = s.pc + 2 ∧ u.stack = s.stack ∧ SameRegsBut [] s u

/-- A finite `STACK_DEPTH` (10_state.md rule R27, 60_exceptions.md rule R265, D14): CALL on a full stack raises
StackOverflow and on any other pushes. The machine's own `STACK_DEPTH` is unbounded (log 5); the statement is about the
call operation at every depth. -/
def Obligations.BoundedStackOverflows : Prop :=
  ∀ (d : Nat) (nnn : BitVec 12) (s : State),
    (s.stack.length = d → ∃ t, callWith (some d) nnn s = .next t ∧ HaltedBy (.stackOverflow s.pc) s t) ∧
    (s.stack.length ≠ d → ∃ t, callWith (some d) nnn s = .next t ∧ t.pc.toNat = nnn.toNat ∧
      t.stack = (s.pc + 2) :: s.stack ∧ t.lastFault = none)

/-! ## Registers: load, arithmetic, logic, shift, random (41_alu.md) -/

/-- Load constant, add constant, copy, OR, AND, XOR (rules R130 to R135): the destination gets the value, modulo 256
where it is a sum, and no flag is written. -/
def Obligations.LoadAddConstantLogicResults : Prop :=
  ∀ (x y : RegIdx) (kk : Byte) (s : State),
    (∃ t, exec (.ldVxKk x kk) s = .next t ∧ t.reg x = kk ∧ t.pc = s.pc + 2 ∧ WritesOnlyRegs [x] s t) ∧
    (∃ t, exec (.addVxKk x kk) s = .next t ∧ (t.reg x).toNat = ((s.reg x).toNat + kk.toNat) % 256 ∧
      t.pc = s.pc + 2 ∧ WritesOnlyRegs [x] s t) ∧
    (∃ t, exec (.ldVxVy x y) s = .next t ∧ t.reg x = s.reg y ∧ t.pc = s.pc + 2 ∧ WritesOnlyRegs [x] s t) ∧
    (∃ t, exec (.orVxVy x y) s = .next t ∧ t.reg x = s.reg x ||| s.reg y ∧ t.pc = s.pc + 2 ∧
      WritesOnlyRegs [x] s t) ∧
    (∃ t, exec (.andVxVy x y) s = .next t ∧ t.reg x = s.reg x &&& s.reg y ∧ t.pc = s.pc + 2 ∧
      WritesOnlyRegs [x] s t) ∧
    (∃ t, exec (.xorVxVy x y) s = .next t ∧ t.reg x = s.reg x ^^^ s.reg y ∧ t.pc = s.pc + 2 ∧
      WritesOnlyRegs [x] s t)

/-- ADD VX,VY, SUB and SUBN with neither operand `VF` (rules R136, R137, R139, the source's "for all 8-bit a,b"): the
result modulo 256, and `VF` the carry or the strict comparison of the old values. -/
def Obligations.AddSubtractResults : Prop :=
  ∀ (x y : RegIdx) (s : State), x ≠ vf → y ≠ vf →
    (∃ t, exec (.addVxVy x y) s = .next t ∧ (t.reg x).toNat = ((s.reg x).toNat + (s.reg y).toNat) % 256 ∧
      t.reg vf = (if (s.reg x).toNat + (s.reg y).toNat > 255 then 1 else 0) ∧ t.pc = s.pc + 2 ∧
      WritesOnlyRegs [x, vf] s t) ∧
    (∃ t, exec (.subVxVy x y) s = .next t ∧ (t.reg x).toNat = ((s.reg x).toNat + 256 - (s.reg y).toNat) % 256 ∧
      t.reg vf = (if (s.reg x).toNat > (s.reg y).toNat then 1 else 0) ∧ t.pc = s.pc + 2 ∧
      WritesOnlyRegs [x, vf] s t) ∧
    (∃ t, exec (.subnVxVy x y) s = .next t ∧ (t.reg x).toNat = ((s.reg y).toNat + 256 - (s.reg x).toNat) % 256 ∧
      t.reg vf = (if (s.reg y).toNat > (s.reg x).toNat then 1 else 0) ∧ t.pc = s.pc + 2 ∧
      WritesOnlyRegs [x, vf] s t)

/-- ADD VX,VY, SUB and SUBN where an operand is `VF`: the three corner cases rules R136, R137 and R139 spell out. They
are the spec's own sequential reading (D18, U6), not the source's: the model's choice (log 12). -/
def Obligations.AddSubtractOnVF : Prop :=
  ∀ (x : RegIdx) (s : State), x ≠ vf →
    (∀ c : Byte, c = (if (s.reg x).toNat + (s.reg vf).toNat > 255 then 1 else 0) →
      (∃ t, exec (.addVxVy x vf) s = .next t ∧ t.reg x = s.reg x + c ∧ t.reg vf = c ∧ t.pc = s.pc + 2 ∧
        WritesOnlyRegs [x, vf] s t) ∧
      (∃ t, exec (.addVxVy vf x) s = .next t ∧ t.reg vf = c + s.reg x ∧ t.pc = s.pc + 2 ∧
        WritesOnlyRegs [vf] s t)) ∧
    (∀ c : Byte, c = (if (s.reg x).toNat > (s.reg vf).toNat then 1 else 0) →
      (∃ t, exec (.subVxVy x vf) s = .next t ∧ t.reg x = s.reg x - c ∧ t.reg vf = c ∧ t.pc = s.pc + 2 ∧
        WritesOnlyRegs [x, vf] s t) ∧
      (∃ t, exec (.subnVxVy vf x) s = .next t ∧ t.reg vf = s.reg x - c ∧ t.pc = s.pc + 2 ∧
        WritesOnlyRegs [vf] s t)) ∧
    (∀ c : Byte, c = (if (s.reg vf).toNat > (s.reg x).toNat then 1 else 0) →
      (∃ t, exec (.subVxVy vf x) s = .next t ∧ t.reg vf = c - s.reg x ∧ t.pc = s.pc + 2 ∧
        WritesOnlyRegs [vf] s t) ∧
      (∃ t, exec (.subnVxVy x vf) s = .next t ∧ t.reg x = c - s.reg x ∧ t.reg vf = c ∧ t.pc = s.pc + 2 ∧
        WritesOnlyRegs [x, vf] s t)) ∧
    (∃ t, exec (.addVxVy vf vf) s = .next t ∧ t.reg vf = (if 128 ≤ (s.reg vf).toNat then 2 else 0) ∧
      t.pc = s.pc + 2 ∧ WritesOnlyRegs [vf] s t) ∧
    (∃ t, exec (.subVxVy vf vf) s = .next t ∧ t.reg vf = 0 ∧ t.pc = s.pc + 2 ∧ WritesOnlyRegs [vf] s t) ∧
    (∃ t, exec (.subnVxVy vf vf) s = .next t ∧ t.reg vf = 0 ∧ t.pc = s.pc + 2 ∧ WritesOnlyRegs [vf] s t)

/-- SHR and SHL (rules R138, R140): shift in place by one, `VF` the bit shifted out; Y is ignored (it is no part of
the instruction). The last two clauses, `X = 0xF`, are the spec's sequential reading D18 (log 12). -/
def Obligations.ShiftResults : Prop :=
  ∀ (x : RegIdx) (s : State),
    (x ≠ vf → ∃ t, exec (.shrVx x) s = .next t ∧ (t.reg x).toNat = (s.reg x).toNat / 2 ∧
      (t.reg vf).toNat = (s.reg x).toNat % 2 ∧ t.pc = s.pc + 2 ∧ WritesOnlyRegs [x, vf] s t) ∧
    (x ≠ vf → ∃ t, exec (.shlVx x) s = .next t ∧ (t.reg x).toNat = 2 * (s.reg x).toNat % 256 ∧
      (t.reg vf).toNat = (s.reg x).toNat / 128 ∧ t.pc = s.pc + 2 ∧ WritesOnlyRegs [x, vf] s t) ∧
    (x = vf → ∃ t, exec (.shrVx x) s = .next t ∧ t.reg vf = 0 ∧ t.pc = s.pc + 2 ∧ WritesOnlyRegs [vf] s t) ∧
    (x = vf → ∃ t, exec (.shlVx x) s = .next t ∧ (t.reg vf).toNat = 2 * ((s.reg vf).toNat / 128) ∧
      t.pc = s.pc + 2 ∧ WritesOnlyRegs [vf] s t)

/-- The shift pair (rule R141): SHL then SHR clears bit 7 and nothing else, SHR then SHL clears bit 0 and nothing else,
and the flag of the first shift is the bit lost. -/
def Obligations.ShiftPairLosesOneBit : Prop :=
  ∀ (x : RegIdx) (s t u : State), x ≠ vf →
    (exec (.shlVx x) s = .next t → exec (.shrVx x) t = .next u →
      u.reg x = s.reg x &&& 0x7F ∧ (s.reg x).toNat = 128 * (t.reg vf).toNat + (u.reg x).toNat) ∧
    (exec (.shrVx x) s = .next t → exec (.shlVx x) t = .next u →
      u.reg x = s.reg x &&& 0xFE ∧ (s.reg x).toNat = (t.reg vf).toNat + (u.reg x).toNat)

/-- RND (rule R143): a fresh random byte AND KK, whatever the byte is. The byte is a free value (D23; log 13); which
draw it is, is the model's own counter. -/
def Obligations.RandomResult : Prop :=
  ∀ (x : RegIdx) (kk : Byte) (s : State),
    ∃ t, exec (.rndVxKk x kk) s = .next t ∧ t.reg x = Config.randomByte s.draws &&& kk ∧
      (t.reg x).toNat ≤ kk.toNat ∧ (∀ k, kk.getLsbD k = false → (t.reg x).getLsbD k = false) ∧
      t.pc = s.pc + 2 ∧ WritesOnlyRegs [x] (s.setDraws (s.draws + 1)) t

/-! ## Index and memory (42_index_memory.md) -/

/-- LD I,NNN and LD F,VX (rules R160, R162): `I` gets the constant, or the glyph address of the whole byte, which never
wraps. -/
def Obligations.SetIndexResults : Prop :=
  ∀ (nnn : BitVec 12) (x : RegIdx) (s : State),
    (∃ t, exec (.ldINnn nnn) s = .next t ∧ t.i.toNat = nnn.toNat ∧ t.pc = s.pc + 2 ∧
      WritesOnlyRegs [] (s.setI t.i) t) ∧
    (∃ t, exec (.ldFVx x) s = .next t ∧ t.i.toNat = 0x50 + 5 * (s.reg x).toNat ∧ t.pc = s.pc + 2 ∧
      WritesOnlyRegs [] (s.setI t.i) t)

/-- ADD I,VX (rule R161): the sum modulo 2^16, no flag. The wrap is the spec's decision D16 (log 22). -/
def Obligations.AddIndexResult : Prop :=
  ∀ (x : RegIdx) (s : State),
    ∃ t, exec (.addIVx x) s = .next t ∧ t.i.toNat = (s.i.toNat + (s.reg x).toNat) % 65536 ∧ t.pc = s.pc + 2 ∧
      WritesOnlyRegs [] (s.setI t.i) t

/-- LD B,VX where its three bytes exist (rule R163): hundreds, tens and ones at I, I+1, I+2, every other byte as
before. -/
def Obligations.BcdStoreResult : Prop :=
  ∀ (x : RegIdx) (s : State), s.base + 2 ≤ 0xFFF →
    ∃ t, exec (.ldBVx x) s = .next t ∧
      (t.mem.read s.base).toNat = (s.reg x).toNat / 100 ∧
      (t.mem.read (s.base + 1)).toNat = (s.reg x).toNat / 10 % 10 ∧
      (t.mem.read (s.base + 2)).toNat = (s.reg x).toNat % 10 ∧
      SameMemoryOutside s.base 3 s t ∧ t.pc = s.pc + 2 ∧ WritesOnlyRegs [] (s.setMem t.mem) t

/-- LD [I],VX where its bytes exist (rule R165): `V[0]` to `V[X]` in ascending order from I, every other byte as
before. That `I` stays is the spec's decision D20 (log 22). -/
def Obligations.RegisterDumpResult : Prop :=
  ∀ (x : RegIdx) (s : State), s.base + x.val ≤ 0xFFF →
    ∃ t, exec (.ldMemVx x) s = .next t ∧
      (∀ r : RegIdx, r ≤ x → t.mem.read (s.base + r.val) = s.reg r) ∧
      SameMemoryOutside s.base (x.val + 1) s t ∧ t.pc = s.pc + 2 ∧ WritesOnlyRegs [] (s.setMem t.mem) t

/-- LD VX,[I] where its bytes exist (rule R166): the bytes from I in ascending order into `V[0]` to `V[X]`, the
registers above X and memory as before. That `I` stays is the spec's decision D20 (log 22). -/
def Obligations.RegisterLoadResult : Prop :=
  ∀ (x : RegIdx) (s : State), s.base + x.val ≤ 0xFFF →
    ∃ t, exec (.ldVxMem x) s = .next t ∧
      (∀ r : RegIdx, r ≤ x → t.reg r = s.mem.read (s.base + r.val)) ∧
      t.pc = s.pc + 2 ∧ WritesOnlyRegs (regsUpTo x) s t

/-- Dump then load at the same I and X round-trips `V[0]` to `V[X]` (rule R167), whatever happened in between, provided
I and the bytes dumped are as the dump left them. -/
def Obligations.DumpThenLoadRoundTrips : Prop :=
  ∀ (x : RegIdx) (s t u w : State), exec (.ldMemVx x) s = .next t → t.lastFault = none →
    u.i = t.i → (∀ r : RegIdx, r ≤ x → u.mem.read (t.base + r.val) = t.mem.read (t.base + r.val)) →
    exec (.ldVxMem x) u = .next w →
    w.lastFault = none ∧ (∀ r : RegIdx, r ≤ x → w.reg r = s.reg r) ∧ (∀ r : RegIdx, x < r → w.reg r = u.reg r)

/-- An instruction that would touch an address above 0xFFF raises MemOutOfBounds before it reads or writes anything,
recording the first such address; no address wraps (20_memory.md rule R56, R164, 60_exceptions.md rule R264). The fault
is the spec's decision D15 and its effect D21 (logs 2, 4). -/
def Obligations.AccessAboveMemoryHalts : Prop :=
  ∀ (i : Instr) (s : State), 1 ≤ i.accessLength → 0xFFF < s.i.toNat + (i.accessLength - 1) →
    ∃ t, exec i s = .next t ∧ HaltedBy (.memOutOfBounds (max s.i.toNat 0x1000) s.pc) s t

/-! ## Display (43_display.md) -/

/-- CLS (rule R180): every pixel 0; no register, so no flag, changes. -/
def Obligations.ClearScreenResult : Prop :=
  ∀ s : State, ∃ t, exec .cls s = .next t ∧ (∀ x y, x < 64 → y < 32 → t.fb.pixel x y = false) ∧
    t.pc = s.pc + 2 ∧ WritesOnlyRegs [] (s.setFb t.fb) t

/-- DRW, the drawing loop against its closed form (rules R181, R182, R183): where the sprite's bytes exist (or N = 0),
every pixel of the grid is XORed with the sprite's bit there, `VF` is 1 iff a pixel went from 1 to 0, and nothing else
changes. Bit order and coordinate arithmetic are D19 and G3 (logs 10, 11). -/
def Obligations.DrawXorsSpriteBits : Prop :=
  ∀ (x y : RegIdx) (n : Nat) (s : State), n = 0 ∨ s.base + n ≤ 0x1000 →
    ∃ t, exec (.drwVxVyN x y n) s = .next t ∧
      (∀ px py, px < 64 → py < 32 → t.fb.pixel px py = (s.fb.pixel px py ^^ spriteBit s x y n px py)) ∧
      (t.reg vf = 1 ↔ ∃ px py, px < 64 ∧ py < 32 ∧ spriteBit s x y n px py = true ∧ s.fb.pixel px py = true) ∧
      (t.reg vf = 0 ∨ t.reg vf = 1) ∧
      t.pc = s.pc + 2 ∧ WritesOnlyRegs [vf] (s.setFb t.fb) t

/-- A sprite whose start lies off the grid draws nothing and leaves `VF` 0, and so does N = 0 whatever `I` is (rules
R183, R184): the start position is not reduced and nothing wraps. -/
def Obligations.DrawOffGridDrawsNothing : Prop :=
  ∀ (x y : RegIdx) (n : Nat) (s : State),
    (n = 0 ∨ (s.base + n ≤ 0x1000 ∧ (64 ≤ (s.reg x).toNat ∨ 32 ≤ (s.reg y).toNat))) →
    ∃ t, exec (.drwVxVyN x y n) s = .next t ∧ t.fb = s.fb ∧ t.reg vf = 0 ∧ t.pc = s.pc + 2 ∧
      WritesOnlyRegs [vf] s t

/-- Drawing the same sprite twice restores the framebuffer exactly, and the second draw reports a collision iff the
first turned a pixel on (rule R185). Between the two, `I`, the memory, VX and VY are as before the first. -/
def Obligations.DrawTwiceRestoresScreen : Prop :=
  ∀ (x y : RegIdx) (n : Nat) (s t u w : State), n = 0 ∨ s.base + n ≤ 0x1000 →
    exec (.drwVxVyN x y n) s = .next t →
    u.fb = t.fb → u.mem = s.mem → u.i = s.i → u.reg x = s.reg x → u.reg y = s.reg y →
    exec (.drwVxVyN x y n) u = .next w →
    w.fb = s.fb ∧
    (w.reg vf = 1 ↔ ∃ px py, px < 64 ∧ py < 32 ∧ s.fb.pixel px py = false ∧ t.fb.pixel px py = true)

/-! ## Input and timers (44_input_timers.md) -/

/-- SKP and SKNP (rules R200, R201): the whole byte is compared with the whole key code. That `PRESSED` is not
consulted is the spec's decision D7 (log 20). -/
def Obligations.KeySkipResults : Prop :=
  ∀ (x : RegIdx) (s : State),
    (∃ t, exec (.skpVx x) s = .next t ∧ t.pc = (if s.reg x = s.key then s.pc + 4 else s.pc + 2) ∧
      WritesOnlyRegs [] s t) ∧
    (∃ t, exec (.sknpVx x) s = .next t ∧ t.pc = (if s.reg x ≠ s.key then s.pc + 4 else s.pc + 2) ∧
      WritesOnlyRegs [] s t)

/-- LD VX,K (rule R202): with a key pressed it loads the code and goes on; without, `PC` stays, no register changes,
and the cycle is complete in every other respect. -/
def Obligations.KeyWaitResults : Prop :=
  ∀ (x : RegIdx) (s : State),
    (s.pressed = true → ∃ t, exec (.ldVxK x) s = .next t ∧ t.reg x = s.key ∧ t.pc = s.pc + 2 ∧
      WritesOnlyRegs [x] s t) ∧
    (s.pressed = false → ∃ t, exec (.ldVxK x) s = .next t ∧ t.pc = s.pc ∧ WritesOnlyRegs [] s t)

/-- LD VX,DT and LD DT,VX (rules R204, R205): the read is before the cycle's own decrement, the write is decremented in
the same cycle. -/
def Obligations.DelayTimerResults : Prop :=
  ∀ (x : RegIdx) (s : State),
    (∃ t, exec (.ldVxDt x) s = .next t ∧ t.reg x = s.dt ∧ t.dt.toNat = s.dt.toNat - 1 ∧ t.pc = s.pc + 2 ∧
      WritesOnlyRegs [x] s t) ∧
    (∃ t, exec (.ldDtVx x) s = .next t ∧ t.dt.toNat = (s.reg x).toNat - 1 ∧ t.pc = s.pc + 2 ∧
      WritesOnlyRegs [] (s.setDt (s.reg x)) t)

/-- LD ST,VX (rule R206): `ST` holds the register at the end of the cycle, by the default of D17 (log 6). -/
def Obligations.SoundTimerResult : Prop :=
  ∀ (x : RegIdx) (s : State),
    ∃ t, exec (.ldStVx x) s = .next t ∧ t.st = s.reg x ∧ t.pc = s.pc + 2 ∧
      WritesOnlyRegs [] (s.setSt (s.reg x)) t

/-! ## Faults (60_exceptions.md) -/

/-- A cycle whose `PC` is 0xFFF or more raises PcOutOfBounds (rule R261; the bound is D10, log 21; the effect D21, log
2). -/
def Obligations.PcOutOfBoundsHalts : Prop :=
  ∀ s : State, s.initialised = true → 0xFFF ≤ s.pc.toNat →
    ∃ t, step s = .next t ∧ HaltedBy (.pcOutOfBounds s.pc) s t

/-- A cycle that fetches a word of no row raises UnknownOpcode; `PC` still points at the word (rule R262; the effect is
D21, log 2). -/
def Obligations.UnknownOpcodeHalts : Prop :=
  ∀ s : State, s.initialised = true → s.pc.toNat < 0xFFF → decodeWord s.wordAtPc = none →
    ∃ t, step s = .next t ∧ HaltedBy (.unknownOpcode s.wordAtPc s.pc) s t

/-- Each fault has only its own cause, in phase order (rules R260, R269): a fault that a step raised tells what the
machine was about to do. StackOverflow is not among them at the default `STACK_DEPTH` (log 5). -/
def Obligations.FaultsHaveOnlyTheirCauses : Prop :=
  ∀ (s t : State) (f : Fault), step s = .next t → t.lastFault = some f →
    (∃ a, f = .pcOutOfBounds a ∧ a = s.pc ∧ 0xFFF ≤ s.pc.toNat) ∨
    (∃ w a, f = .unknownOpcode w a ∧ a = s.pc ∧ s.pc.toNat < 0xFFF ∧ w = s.wordAtPc ∧ decodeWord w = none) ∨
    (∃ a, f = .stackUnderflow a ∧ a = s.pc ∧ s.pc.toNat < 0xFFF ∧ decodeWord s.wordAtPc = some .ret ∧
      s.stack = []) ∨
    (∃ m a i, f = .memOutOfBounds m a ∧ a = s.pc ∧ s.pc.toNat < 0xFFF ∧ decodeWord s.wordAtPc = some i ∧
      1 ≤ i.accessLength ∧ 0xFFF < s.i.toNat + (i.accessLength - 1) ∧ m = max s.i.toNat 0x1000)

/-- A fault leaves everything as the cycle found it, but halted and reported (rules R266, R267). That the state is
unchanged is the spec's decision D21 (log 2), that it is a next state the model's choice (log 1). -/
def Obligations.FaultChangesOnlyRunState : Prop :=
  ∀ (s t : State) (f : Fault), step s = .next t → t.lastFault = some f → HaltedBy f s t ∧ t.Halted

/-! ## Reset and the host interface (70_reset_and_hazards.md, 45_cycle_driver_and_host.md) -/

/-- The state after reset (10_state.md rule R38): every register, timer and pixel 0, `PC` at 0x200, the stack empty,
the font at 0x050 to 0x09F and 0 in every other byte. `KEY` and `PRESSED` are D4, the paused `RUN` D2 (logs 16, 20),
the font bytes G2 (log 9). -/
def Obligations.ResetState : Prop :=
  (∀ r, State.reset.reg r = 0) ∧ State.reset.i = 0 ∧ State.reset.pc = 0x200 ∧ State.reset.stack = [] ∧
  State.reset.dt = 0 ∧ State.reset.st = 0 ∧ (∀ x y, State.reset.fb.pixel x y = false) ∧
  State.reset.key = 0 ∧ State.reset.pressed = false ∧ State.reset.haltCause = .none ∧
  State.reset.run = .paused ∧
  (∀ k, k < 80 → State.reset.mem.read (0x050 + k) = font.getD k 0) ∧
  (∀ a, a < 0x050 ∨ 0x09F < a → State.reset.mem.read a = 0)

/-- `Initialize` from any state, halted or not, initialised or not (rule R300): all machine state as rule R38 says,
`HALT_CAUSE` none, `RUN` and `CLOCK_HZ` unchanged (D3, D26); it does not reseed the random source (log 13). The reset
input gives the same and pauses (rule R302, D2; log 16). -/
def Obligations.InitialiseFromAnyState : Prop :=
  ∀ s : State,
    (∃ t, perform .initialise s = .next t ∧ t.v = State.reset.v ∧ t.i = 0 ∧ t.pc = 0x200 ∧ t.stack = [] ∧
      t.dt = 0 ∧ t.st = 0 ∧ t.mem = State.reset.mem ∧ t.fb = State.reset.fb ∧ t.key = 0 ∧ t.pressed = false ∧
      t.haltCause = .none ∧ t.run = s.run ∧ t.clockHz = s.clockHz ∧ t.initialised = true ∧ t.draws = s.draws) ∧
    (∃ t, transition .hardwareReset s = .next t ∧ t.run = .paused ∧ perform .initialise s = .next (t.setRun s.run))

/-- `loadRom` (rules R231, R232): up to 3584 bytes are written from 0x200 on; of more, the policy `truncate` writes the
first 3584 and `ignore` none; nothing else of the machine changes, and no byte outside 0x200 to 0xFFF is written.
That nothing else changes is the spec's decision D25 (log 25); which policy the machine has is open (D24; log 14). -/
def Obligations.LoadRomWritesOnlyProgramBytes : Prop :=
  ∀ (bytes : List Byte) (s : State) (p : RomOverflowPolicy),
    (bytes.length ≤ 3584 →
      (∀ k (h : k < bytes.length), (s.loadRomWith p bytes).mem.read (0x200 + k) = bytes[k]) ∧
      SameMemoryOutside 0x200 bytes.length s (s.loadRomWith p bytes)) ∧
    (3584 < bytes.length →
      (∀ k (h : k < bytes.length), k < 3584 → (s.loadRomWith .truncate bytes).mem.read (0x200 + k) = bytes[k]) ∧
      s.loadRomWith .ignore bytes = s) ∧
    SameMemoryOutside 0x200 3584 s (s.loadRomWith p bytes) ∧
    (s.loadRomWith p bytes).setMem s.mem = s ∧
    perform (.loadRom bytes) s = .next (s.loadRomWith Config.romOverflowPolicy bytes)

/-- The run-state machine (rules R226 to R229, R267, R268): `start` runs and clears the cause, `pause` pauses and keeps
it; while paused or halted the core does nothing of its own accord, while running it performs cycles; `step` performs
one whatever `RUN` is; a completed cycle keeps `RUN` and the cause, a faulting one leaves the machine halted with its
own cause. The effects on `HALT_CAUSE` are the spec's decision D3. -/
def Obligations.RunStateMachine : Prop :=
  ∀ s : State,
    (∃ t, perform .start s = .next t ∧ t.run = .running ∧ t.haltCause = .none ∧
      (t.setRun s.run).setHaltCause s.haltCause = s) ∧
    (∃ t, perform .pause s = .next t ∧ t.run = .paused ∧ t.setRun s.run = s) ∧
    (s.run = .paused → transition .tick s = .next s) ∧
    (s.run = .running → transition .tick s = step s) ∧
    transition (.command .step) s = step s ∧
    (∀ t, step s = .next t → t.lastFault = none → t.run = s.run ∧ t.haltCause = s.haltCause) ∧
    (∀ t f, step s = .next t → t.lastFault = some f → t.Halted ∧ t.haltCause = f.cause)

/-- `setClockFrequency` (rule R238): a positive frequency is taken, any other is ignored silently; nothing else
changes. -/
def Obligations.SetClockFrequencyResult : Prop :=
  ∀ (hz : Rat) (s : State),
    (0 < hz → ∃ t, perform (.setClockFrequency hz) s = .next t ∧ t.clockHz = hz ∧ t.setClockHz s.clockHz = s) ∧
    (hz ≤ 0 → perform (.setClockFrequency hz) s = .next s)

/-- `setKey` and `setKeyPressed` (rules R236, R237): each writes its own field of the latch and nothing else. The width
is the spec's decision D5, the split D6 (log 20). -/
def Obligations.KeyCommandResults : Prop :=
  ∀ (code : Nat) (b : Bool) (s : State),
    (∃ t, perform (.setKey code) s = .next t ∧ t.key.toNat = code % 256 ∧ t.setKey s.key = s) ∧
    (∃ t, perform (.setKeyPressed b) s = .next t ∧ t.pressed = b ∧ t.setPressed s.pressed = s)

/-! ## Invariants -/

/-- The invariant holds after reset. The clock frequency of the reset state is the model's choice (log 15); only that
it is positive is used. -/
def Obligations.ResetMeetsInvariant : Prop := State.reset.Inv

/-- Every step keeps the invariant: memory stays in canonical form, `PC` at most 0x10FE and return addresses at most
0x1000 (10_state.md rule R25), a running machine not halted (rule R33), the frequency positive (rule R34). -/
def Obligations.StepKeepsInvariant : Prop :=
  ∀ s t : State, s.Inv → step s = .next t → t.Inv

/-- So does every transition, of the core or of the host, and so every schedule of them (00_scope.md rule R10). -/
def Obligations.ScheduleKeepsInvariant : Prop :=
  ∀ (es : List Event) (s t : State), s.Inv → runSchedule es s = .next t → t.Inv

/-- The model's own representation of memory (log 24, a choice of the model, said by no rule of the spec): two memories
in canonical form that read the same everywhere are the same data, so that the list holds nothing beyond the bytes of
20_memory.md. -/
def Obligations.MemoryIsItsReads : Prop :=
  ∀ m m' : Memory, m.wf = true → m'.wf = true → (∀ a, m.read a = m'.read a) → m = m'

/-! ## Fairness (70_reset_and_hazards.md rule R316) -/

/-- Fairness (rule R316, 45_cycle_driver_and_host.md rule R228): on a fair schedule with no `pause` and no reset input, a
running machine performs another cycle, and is still running when the first one comes: it leaves `running` by itself in
no other way than by a cycle that faults. The schedule on which the core does nothing but run is fair from every state, so fairness
shuts no machine out. What counts as the cycle, and that a pause releases it, is log 28. -/
def Obligations.FairScheduleRunsAnotherCycle : Prop :=
  (∀ s : State, Schedule.Fair (fun _ => .tick) s) ∧
  (∀ (es : Schedule) (s t : State) (n : Nat), es.Fair s →
    (∀ k, es k ≠ .command .pause ∧ es k ≠ .hardwareReset) →
    es.outcomeAt s n = .next t → t.run = .running →
    ∃ m u, n ≤ m ∧ es.outcomeAt s m = .next u ∧ u.run = .running ∧ (es m).runsCycle u = true ∧
      ∀ k, n ≤ k → k < m → ¬ es.CycleAt s k)
end

