-- ==== Sys2Proof/Laws/State.lean ====
section
/-! SUPPORT. One lemma per field per update of the state, each true by rfl, so that no later proof unfolds a record
update. -/

namespace Sys2Proof.Machine

/-! ## `setV` -/

@[simp] theorem State.setV_v (s : State) (v : Regs) : (s.setV v).v = v := rfl
@[simp] theorem State.setV_i (s : State) (v : Regs) : (s.setV v).i = s.i := rfl
@[simp] theorem State.setV_pc (s : State) (v : Regs) : (s.setV v).pc = s.pc := rfl
@[simp] theorem State.setV_stack (s : State) (v : Regs) : (s.setV v).stack = s.stack := rfl
@[simp] theorem State.setV_dt (s : State) (v : Regs) : (s.setV v).dt = s.dt := rfl
@[simp] theorem State.setV_st (s : State) (v : Regs) : (s.setV v).st = s.st := rfl
@[simp] theorem State.setV_mem (s : State) (v : Regs) : (s.setV v).mem = s.mem := rfl
@[simp] theorem State.setV_fb (s : State) (v : Regs) : (s.setV v).fb = s.fb := rfl
@[simp] theorem State.setV_key (s : State) (v : Regs) : (s.setV v).key = s.key := rfl
@[simp] theorem State.setV_pressed (s : State) (v : Regs) : (s.setV v).pressed = s.pressed := rfl
@[simp] theorem State.setV_run (s : State) (v : Regs) : (s.setV v).run = s.run := rfl
@[simp] theorem State.setV_haltCause (s : State) (v : Regs) : (s.setV v).haltCause = s.haltCause := rfl
@[simp] theorem State.setV_clockHz (s : State) (v : Regs) : (s.setV v).clockHz = s.clockHz := rfl
@[simp] theorem State.setV_initialised (s : State) (v : Regs) : (s.setV v).initialised = s.initialised := rfl
@[simp] theorem State.setV_draws (s : State) (v : Regs) : (s.setV v).draws = s.draws := rfl
@[simp] theorem State.setV_notes (s : State) (v : Regs) : (s.setV v).notes = s.notes := rfl

/-! ## `setI` -/

@[simp] theorem State.setI_v (s : State) (a : Word) : (s.setI a).v = s.v := rfl
@[simp] theorem State.setI_i (s : State) (a : Word) : (s.setI a).i = a := rfl
@[simp] theorem State.setI_pc (s : State) (a : Word) : (s.setI a).pc = s.pc := rfl
@[simp] theorem State.setI_stack (s : State) (a : Word) : (s.setI a).stack = s.stack := rfl
@[simp] theorem State.setI_dt (s : State) (a : Word) : (s.setI a).dt = s.dt := rfl
@[simp] theorem State.setI_st (s : State) (a : Word) : (s.setI a).st = s.st := rfl
@[simp] theorem State.setI_mem (s : State) (a : Word) : (s.setI a).mem = s.mem := rfl
@[simp] theorem State.setI_fb (s : State) (a : Word) : (s.setI a).fb = s.fb := rfl
@[simp] theorem State.setI_key (s : State) (a : Word) : (s.setI a).key = s.key := rfl
@[simp] theorem State.setI_pressed (s : State) (a : Word) : (s.setI a).pressed = s.pressed := rfl
@[simp] theorem State.setI_run (s : State) (a : Word) : (s.setI a).run = s.run := rfl
@[simp] theorem State.setI_haltCause (s : State) (a : Word) : (s.setI a).haltCause = s.haltCause := rfl
@[simp] theorem State.setI_clockHz (s : State) (a : Word) : (s.setI a).clockHz = s.clockHz := rfl
@[simp] theorem State.setI_initialised (s : State) (a : Word) : (s.setI a).initialised = s.initialised := rfl
@[simp] theorem State.setI_draws (s : State) (a : Word) : (s.setI a).draws = s.draws := rfl
@[simp] theorem State.setI_notes (s : State) (a : Word) : (s.setI a).notes = s.notes := rfl
@[simp] theorem State.setI_reg (s : State) (a : Word) (x : RegIdx) : (s.setI a).reg x = s.reg x := rfl

/-! ## `setPc` -/

@[simp] theorem State.setPc_v (s : State) (a : Word) : (s.setPc a).v = s.v := rfl
@[simp] theorem State.setPc_i (s : State) (a : Word) : (s.setPc a).i = s.i := rfl
@[simp] theorem State.setPc_pc (s : State) (a : Word) : (s.setPc a).pc = a := rfl
@[simp] theorem State.setPc_stack (s : State) (a : Word) : (s.setPc a).stack = s.stack := rfl
@[simp] theorem State.setPc_dt (s : State) (a : Word) : (s.setPc a).dt = s.dt := rfl
@[simp] theorem State.setPc_st (s : State) (a : Word) : (s.setPc a).st = s.st := rfl
@[simp] theorem State.setPc_mem (s : State) (a : Word) : (s.setPc a).mem = s.mem := rfl
@[simp] theorem State.setPc_fb (s : State) (a : Word) : (s.setPc a).fb = s.fb := rfl
@[simp] theorem State.setPc_key (s : State) (a : Word) : (s.setPc a).key = s.key := rfl
@[simp] theorem State.setPc_pressed (s : State) (a : Word) : (s.setPc a).pressed = s.pressed := rfl
@[simp] theorem State.setPc_run (s : State) (a : Word) : (s.setPc a).run = s.run := rfl
@[simp] theorem State.setPc_haltCause (s : State) (a : Word) : (s.setPc a).haltCause = s.haltCause := rfl
@[simp] theorem State.setPc_clockHz (s : State) (a : Word) : (s.setPc a).clockHz = s.clockHz := rfl
@[simp] theorem State.setPc_initialised (s : State) (a : Word) : (s.setPc a).initialised = s.initialised := rfl
@[simp] theorem State.setPc_draws (s : State) (a : Word) : (s.setPc a).draws = s.draws := rfl
@[simp] theorem State.setPc_notes (s : State) (a : Word) : (s.setPc a).notes = s.notes := rfl
@[simp] theorem State.setPc_reg (s : State) (a : Word) (x : RegIdx) : (s.setPc a).reg x = s.reg x := rfl

/-! ## `setStack` -/

@[simp] theorem State.setStack_v (s : State) (l : List Word) : (s.setStack l).v = s.v := rfl
@[simp] theorem State.setStack_i (s : State) (l : List Word) : (s.setStack l).i = s.i := rfl
@[simp] theorem State.setStack_pc (s : State) (l : List Word) : (s.setStack l).pc = s.pc := rfl
@[simp] theorem State.setStack_stack (s : State) (l : List Word) : (s.setStack l).stack = l := rfl
@[simp] theorem State.setStack_dt (s : State) (l : List Word) : (s.setStack l).dt = s.dt := rfl
@[simp] theorem State.setStack_st (s : State) (l : List Word) : (s.setStack l).st = s.st := rfl
@[simp] theorem State.setStack_mem (s : State) (l : List Word) : (s.setStack l).mem = s.mem := rfl
@[simp] theorem State.setStack_fb (s : State) (l : List Word) : (s.setStack l).fb = s.fb := rfl
@[simp] theorem State.setStack_key (s : State) (l : List Word) : (s.setStack l).key = s.key := rfl
@[simp] theorem State.setStack_pressed (s : State) (l : List Word) : (s.setStack l).pressed = s.pressed := rfl
@[simp] theorem State.setStack_run (s : State) (l : List Word) : (s.setStack l).run = s.run := rfl
@[simp] theorem State.setStack_haltCause (s : State) (l : List Word) : (s.setStack l).haltCause = s.haltCause := rfl
@[simp] theorem State.setStack_clockHz (s : State) (l : List Word) : (s.setStack l).clockHz = s.clockHz := rfl
@[simp] theorem State.setStack_initialised (s : State) (l : List Word) : (s.setStack l).initialised = s.initialised := rfl
@[simp] theorem State.setStack_draws (s : State) (l : List Word) : (s.setStack l).draws = s.draws := rfl
@[simp] theorem State.setStack_notes (s : State) (l : List Word) : (s.setStack l).notes = s.notes := rfl
@[simp] theorem State.setStack_reg (s : State) (l : List Word) (x : RegIdx) : (s.setStack l).reg x = s.reg x := rfl

/-! ## `setDt` -/

@[simp] theorem State.setDt_v (s : State) (b : Byte) : (s.setDt b).v = s.v := rfl
@[simp] theorem State.setDt_i (s : State) (b : Byte) : (s.setDt b).i = s.i := rfl
@[simp] theorem State.setDt_pc (s : State) (b : Byte) : (s.setDt b).pc = s.pc := rfl
@[simp] theorem State.setDt_stack (s : State) (b : Byte) : (s.setDt b).stack = s.stack := rfl
@[simp] theorem State.setDt_dt (s : State) (b : Byte) : (s.setDt b).dt = b := rfl
@[simp] theorem State.setDt_st (s : State) (b : Byte) : (s.setDt b).st = s.st := rfl
@[simp] theorem State.setDt_mem (s : State) (b : Byte) : (s.setDt b).mem = s.mem := rfl
@[simp] theorem State.setDt_fb (s : State) (b : Byte) : (s.setDt b).fb = s.fb := rfl
@[simp] theorem State.setDt_key (s : State) (b : Byte) : (s.setDt b).key = s.key := rfl
@[simp] theorem State.setDt_pressed (s : State) (b : Byte) : (s.setDt b).pressed = s.pressed := rfl
@[simp] theorem State.setDt_run (s : State) (b : Byte) : (s.setDt b).run = s.run := rfl
@[simp] theorem State.setDt_haltCause (s : State) (b : Byte) : (s.setDt b).haltCause = s.haltCause := rfl
@[simp] theorem State.setDt_clockHz (s : State) (b : Byte) : (s.setDt b).clockHz = s.clockHz := rfl
@[simp] theorem State.setDt_initialised (s : State) (b : Byte) : (s.setDt b).initialised = s.initialised := rfl
@[simp] theorem State.setDt_draws (s : State) (b : Byte) : (s.setDt b).draws = s.draws := rfl
@[simp] theorem State.setDt_notes (s : State) (b : Byte) : (s.setDt b).notes = s.notes := rfl
@[simp] theorem State.setDt_reg (s : State) (b : Byte) (x : RegIdx) : (s.setDt b).reg x = s.reg x := rfl

/-! ## `setSt` -/

@[simp] theorem State.setSt_v (s : State) (b : Byte) : (s.setSt b).v = s.v := rfl
@[simp] theorem State.setSt_i (s : State) (b : Byte) : (s.setSt b).i = s.i := rfl
@[simp] theorem State.setSt_pc (s : State) (b : Byte) : (s.setSt b).pc = s.pc := rfl
@[simp] theorem State.setSt_stack (s : State) (b : Byte) : (s.setSt b).stack = s.stack := rfl
@[simp] theorem State.setSt_dt (s : State) (b : Byte) : (s.setSt b).dt = s.dt := rfl
@[simp] theorem State.setSt_st (s : State) (b : Byte) : (s.setSt b).st = b := rfl
@[simp] theorem State.setSt_mem (s : State) (b : Byte) : (s.setSt b).mem = s.mem := rfl
@[simp] theorem State.setSt_fb (s : State) (b : Byte) : (s.setSt b).fb = s.fb := rfl
@[simp] theorem State.setSt_key (s : State) (b : Byte) : (s.setSt b).key = s.key := rfl
@[simp] theorem State.setSt_pressed (s : State) (b : Byte) : (s.setSt b).pressed = s.pressed := rfl
@[simp] theorem State.setSt_run (s : State) (b : Byte) : (s.setSt b).run = s.run := rfl
@[simp] theorem State.setSt_haltCause (s : State) (b : Byte) : (s.setSt b).haltCause = s.haltCause := rfl
@[simp] theorem State.setSt_clockHz (s : State) (b : Byte) : (s.setSt b).clockHz = s.clockHz := rfl
@[simp] theorem State.setSt_initialised (s : State) (b : Byte) : (s.setSt b).initialised = s.initialised := rfl
@[simp] theorem State.setSt_draws (s : State) (b : Byte) : (s.setSt b).draws = s.draws := rfl
@[simp] theorem State.setSt_notes (s : State) (b : Byte) : (s.setSt b).notes = s.notes := rfl
@[simp] theorem State.setSt_reg (s : State) (b : Byte) (x : RegIdx) : (s.setSt b).reg x = s.reg x := rfl

/-! ## `setMem` -/

@[simp] theorem State.setMem_v (s : State) (m : Memory) : (s.setMem m).v = s.v := rfl
@[simp] theorem State.setMem_i (s : State) (m : Memory) : (s.setMem m).i = s.i := rfl
@[simp] theorem State.setMem_pc (s : State) (m : Memory) : (s.setMem m).pc = s.pc := rfl
@[simp] theorem State.setMem_stack (s : State) (m : Memory) : (s.setMem m).stack = s.stack := rfl
@[simp] theorem State.setMem_dt (s : State) (m : Memory) : (s.setMem m).dt = s.dt := rfl
@[simp] theorem State.setMem_st (s : State) (m : Memory) : (s.setMem m).st = s.st := rfl
@[simp] theorem State.setMem_mem (s : State) (m : Memory) : (s.setMem m).mem = m := rfl
@[simp] theorem State.setMem_fb (s : State) (m : Memory) : (s.setMem m).fb = s.fb := rfl
@[simp] theorem State.setMem_key (s : State) (m : Memory) : (s.setMem m).key = s.key := rfl
@[simp] theorem State.setMem_pressed (s : State) (m : Memory) : (s.setMem m).pressed = s.pressed := rfl
@[simp] theorem State.setMem_run (s : State) (m : Memory) : (s.setMem m).run = s.run := rfl
@[simp] theorem State.setMem_haltCause (s : State) (m : Memory) : (s.setMem m).haltCause = s.haltCause := rfl
@[simp] theorem State.setMem_clockHz (s : State) (m : Memory) : (s.setMem m).clockHz = s.clockHz := rfl
@[simp] theorem State.setMem_initialised (s : State) (m : Memory) : (s.setMem m).initialised = s.initialised := rfl
@[simp] theorem State.setMem_draws (s : State) (m : Memory) : (s.setMem m).draws = s.draws := rfl
@[simp] theorem State.setMem_notes (s : State) (m : Memory) : (s.setMem m).notes = s.notes := rfl
@[simp] theorem State.setMem_reg (s : State) (m : Memory) (x : RegIdx) : (s.setMem m).reg x = s.reg x := rfl

/-! ## `setFb` -/

@[simp] theorem State.setFb_v (s : State) (f : Framebuffer) : (s.setFb f).v = s.v := rfl
@[simp] theorem State.setFb_i (s : State) (f : Framebuffer) : (s.setFb f).i = s.i := rfl
@[simp] theorem State.setFb_pc (s : State) (f : Framebuffer) : (s.setFb f).pc = s.pc := rfl
@[simp] theorem State.setFb_stack (s : State) (f : Framebuffer) : (s.setFb f).stack = s.stack := rfl
@[simp] theorem State.setFb_dt (s : State) (f : Framebuffer) : (s.setFb f).dt = s.dt := rfl
@[simp] theorem State.setFb_st (s : State) (f : Framebuffer) : (s.setFb f).st = s.st := rfl
@[simp] theorem State.setFb_mem (s : State) (f : Framebuffer) : (s.setFb f).mem = s.mem := rfl
@[simp] theorem State.setFb_fb (s : State) (f : Framebuffer) : (s.setFb f).fb = f := rfl
@[simp] theorem State.setFb_key (s : State) (f : Framebuffer) : (s.setFb f).key = s.key := rfl
@[simp] theorem State.setFb_pressed (s : State) (f : Framebuffer) : (s.setFb f).pressed = s.pressed := rfl
@[simp] theorem State.setFb_run (s : State) (f : Framebuffer) : (s.setFb f).run = s.run := rfl
@[simp] theorem State.setFb_haltCause (s : State) (f : Framebuffer) : (s.setFb f).haltCause = s.haltCause := rfl
@[simp] theorem State.setFb_clockHz (s : State) (f : Framebuffer) : (s.setFb f).clockHz = s.clockHz := rfl
@[simp] theorem State.setFb_initialised (s : State) (f : Framebuffer) : (s.setFb f).initialised = s.initialised := rfl
@[simp] theorem State.setFb_draws (s : State) (f : Framebuffer) : (s.setFb f).draws = s.draws := rfl
@[simp] theorem State.setFb_notes (s : State) (f : Framebuffer) : (s.setFb f).notes = s.notes := rfl
@[simp] theorem State.setFb_reg (s : State) (f : Framebuffer) (x : RegIdx) : (s.setFb f).reg x = s.reg x := rfl

/-! ## `setKey` -/

@[simp] theorem State.setKey_v (s : State) (b : Byte) : (s.setKey b).v = s.v := rfl
@[simp] theorem State.setKey_i (s : State) (b : Byte) : (s.setKey b).i = s.i := rfl
@[simp] theorem State.setKey_pc (s : State) (b : Byte) : (s.setKey b).pc = s.pc := rfl
@[simp] theorem State.setKey_stack (s : State) (b : Byte) : (s.setKey b).stack = s.stack := rfl
@[simp] theorem State.setKey_dt (s : State) (b : Byte) : (s.setKey b).dt = s.dt := rfl
@[simp] theorem State.setKey_st (s : State) (b : Byte) : (s.setKey b).st = s.st := rfl
@[simp] theorem State.setKey_mem (s : State) (b : Byte) : (s.setKey b).mem = s.mem := rfl
@[simp] theorem State.setKey_fb (s : State) (b : Byte) : (s.setKey b).fb = s.fb := rfl
@[simp] theorem State.setKey_key (s : State) (b : Byte) : (s.setKey b).key = b := rfl
@[simp] theorem State.setKey_pressed (s : State) (b : Byte) : (s.setKey b).pressed = s.pressed := rfl
@[simp] theorem State.setKey_run (s : State) (b : Byte) : (s.setKey b).run = s.run := rfl
@[simp] theorem State.setKey_haltCause (s : State) (b : Byte) : (s.setKey b).haltCause = s.haltCause := rfl
@[simp] theorem State.setKey_clockHz (s : State) (b : Byte) : (s.setKey b).clockHz = s.clockHz := rfl
@[simp] theorem State.setKey_initialised (s : State) (b : Byte) : (s.setKey b).initialised = s.initialised := rfl
@[simp] theorem State.setKey_draws (s : State) (b : Byte) : (s.setKey b).draws = s.draws := rfl
@[simp] theorem State.setKey_notes (s : State) (b : Byte) : (s.setKey b).notes = s.notes := rfl
@[simp] theorem State.setKey_reg (s : State) (b : Byte) (x : RegIdx) : (s.setKey b).reg x = s.reg x := rfl

/-! ## `setPressed` -/

@[simp] theorem State.setPressed_v (s : State) (b : Bool) : (s.setPressed b).v = s.v := rfl
@[simp] theorem State.setPressed_i (s : State) (b : Bool) : (s.setPressed b).i = s.i := rfl
@[simp] theorem State.setPressed_pc (s : State) (b : Bool) : (s.setPressed b).pc = s.pc := rfl
@[simp] theorem State.setPressed_stack (s : State) (b : Bool) : (s.setPressed b).stack = s.stack := rfl
@[simp] theorem State.setPressed_dt (s : State) (b : Bool) : (s.setPressed b).dt = s.dt := rfl
@[simp] theorem State.setPressed_st (s : State) (b : Bool) : (s.setPressed b).st = s.st := rfl
@[simp] theorem State.setPressed_mem (s : State) (b : Bool) : (s.setPressed b).mem = s.mem := rfl
@[simp] theorem State.setPressed_fb (s : State) (b : Bool) : (s.setPressed b).fb = s.fb := rfl
@[simp] theorem State.setPressed_key (s : State) (b : Bool) : (s.setPressed b).key = s.key := rfl
@[simp] theorem State.setPressed_pressed (s : State) (b : Bool) : (s.setPressed b).pressed = b := rfl
@[simp] theorem State.setPressed_run (s : State) (b : Bool) : (s.setPressed b).run = s.run := rfl
@[simp] theorem State.setPressed_haltCause (s : State) (b : Bool) : (s.setPressed b).haltCause = s.haltCause := rfl
@[simp] theorem State.setPressed_clockHz (s : State) (b : Bool) : (s.setPressed b).clockHz = s.clockHz := rfl
@[simp] theorem State.setPressed_initialised (s : State) (b : Bool) : (s.setPressed b).initialised = s.initialised := rfl
@[simp] theorem State.setPressed_draws (s : State) (b : Bool) : (s.setPressed b).draws = s.draws := rfl
@[simp] theorem State.setPressed_notes (s : State) (b : Bool) : (s.setPressed b).notes = s.notes := rfl
@[simp] theorem State.setPressed_reg (s : State) (b : Bool) (x : RegIdx) : (s.setPressed b).reg x = s.reg x := rfl

/-! ## `setRun` -/

@[simp] theorem State.setRun_v (s : State) (r : RunState) : (s.setRun r).v = s.v := rfl
@[simp] theorem State.setRun_i (s : State) (r : RunState) : (s.setRun r).i = s.i := rfl
@[simp] theorem State.setRun_pc (s : State) (r : RunState) : (s.setRun r).pc = s.pc := rfl
@[simp] theorem State.setRun_stack (s : State) (r : RunState) : (s.setRun r).stack = s.stack := rfl
@[simp] theorem State.setRun_dt (s : State) (r : RunState) : (s.setRun r).dt = s.dt := rfl
@[simp] theorem State.setRun_st (s : State) (r : RunState) : (s.setRun r).st = s.st := rfl
@[simp] theorem State.setRun_mem (s : State) (r : RunState) : (s.setRun r).mem = s.mem := rfl
@[simp] theorem State.setRun_fb (s : State) (r : RunState) : (s.setRun r).fb = s.fb := rfl
@[simp] theorem State.setRun_key (s : State) (r : RunState) : (s.setRun r).key = s.key := rfl
@[simp] theorem State.setRun_pressed (s : State) (r : RunState) : (s.setRun r).pressed = s.pressed := rfl
@[simp] theorem State.setRun_run (s : State) (r : RunState) : (s.setRun r).run = r := rfl
@[simp] theorem State.setRun_haltCause (s : State) (r : RunState) : (s.setRun r).haltCause = s.haltCause := rfl
@[simp] theorem State.setRun_clockHz (s : State) (r : RunState) : (s.setRun r).clockHz = s.clockHz := rfl
@[simp] theorem State.setRun_initialised (s : State) (r : RunState) : (s.setRun r).initialised = s.initialised := rfl
@[simp] theorem State.setRun_draws (s : State) (r : RunState) : (s.setRun r).draws = s.draws := rfl
@[simp] theorem State.setRun_notes (s : State) (r : RunState) : (s.setRun r).notes = s.notes := rfl
@[simp] theorem State.setRun_reg (s : State) (r : RunState) (x : RegIdx) : (s.setRun r).reg x = s.reg x := rfl

/-! ## `setHaltCause` -/

@[simp] theorem State.setHaltCause_v (s : State) (c : HaltCause) : (s.setHaltCause c).v = s.v := rfl
@[simp] theorem State.setHaltCause_i (s : State) (c : HaltCause) : (s.setHaltCause c).i = s.i := rfl
@[simp] theorem State.setHaltCause_pc (s : State) (c : HaltCause) : (s.setHaltCause c).pc = s.pc := rfl
@[simp] theorem State.setHaltCause_stack (s : State) (c : HaltCause) : (s.setHaltCause c).stack = s.stack := rfl
@[simp] theorem State.setHaltCause_dt (s : State) (c : HaltCause) : (s.setHaltCause c).dt = s.dt := rfl
@[simp] theorem State.setHaltCause_st (s : State) (c : HaltCause) : (s.setHaltCause c).st = s.st := rfl
@[simp] theorem State.setHaltCause_mem (s : State) (c : HaltCause) : (s.setHaltCause c).mem = s.mem := rfl
@[simp] theorem State.setHaltCause_fb (s : State) (c : HaltCause) : (s.setHaltCause c).fb = s.fb := rfl
@[simp] theorem State.setHaltCause_key (s : State) (c : HaltCause) : (s.setHaltCause c).key = s.key := rfl
@[simp] theorem State.setHaltCause_pressed (s : State) (c : HaltCause) : (s.setHaltCause c).pressed = s.pressed := rfl
@[simp] theorem State.setHaltCause_run (s : State) (c : HaltCause) : (s.setHaltCause c).run = s.run := rfl
@[simp] theorem State.setHaltCause_haltCause (s : State) (c : HaltCause) : (s.setHaltCause c).haltCause = c := rfl
@[simp] theorem State.setHaltCause_clockHz (s : State) (c : HaltCause) : (s.setHaltCause c).clockHz = s.clockHz := rfl
@[simp] theorem State.setHaltCause_initialised (s : State) (c : HaltCause) : (s.setHaltCause c).initialised = s.initialised := rfl
@[simp] theorem State.setHaltCause_draws (s : State) (c : HaltCause) : (s.setHaltCause c).draws = s.draws := rfl
@[simp] theorem State.setHaltCause_notes (s : State) (c : HaltCause) : (s.setHaltCause c).notes = s.notes := rfl
@[simp] theorem State.setHaltCause_reg (s : State) (c : HaltCause) (x : RegIdx) : (s.setHaltCause c).reg x = s.reg x := rfl

/-! ## `setClockHz` -/

@[simp] theorem State.setClockHz_v (s : State) (q : Rat) : (s.setClockHz q).v = s.v := rfl
@[simp] theorem State.setClockHz_i (s : State) (q : Rat) : (s.setClockHz q).i = s.i := rfl
@[simp] theorem State.setClockHz_pc (s : State) (q : Rat) : (s.setClockHz q).pc = s.pc := rfl
@[simp] theorem State.setClockHz_stack (s : State) (q : Rat) : (s.setClockHz q).stack = s.stack := rfl
@[simp] theorem State.setClockHz_dt (s : State) (q : Rat) : (s.setClockHz q).dt = s.dt := rfl
@[simp] theorem State.setClockHz_st (s : State) (q : Rat) : (s.setClockHz q).st = s.st := rfl
@[simp] theorem State.setClockHz_mem (s : State) (q : Rat) : (s.setClockHz q).mem = s.mem := rfl
@[simp] theorem State.setClockHz_fb (s : State) (q : Rat) : (s.setClockHz q).fb = s.fb := rfl
@[simp] theorem State.setClockHz_key (s : State) (q : Rat) : (s.setClockHz q).key = s.key := rfl
@[simp] theorem State.setClockHz_pressed (s : State) (q : Rat) : (s.setClockHz q).pressed = s.pressed := rfl
@[simp] theorem State.setClockHz_run (s : State) (q : Rat) : (s.setClockHz q).run = s.run := rfl
@[simp] theorem State.setClockHz_haltCause (s : State) (q : Rat) : (s.setClockHz q).haltCause = s.haltCause := rfl
@[simp] theorem State.setClockHz_clockHz (s : State) (q : Rat) : (s.setClockHz q).clockHz = q := rfl
@[simp] theorem State.setClockHz_initialised (s : State) (q : Rat) : (s.setClockHz q).initialised = s.initialised := rfl
@[simp] theorem State.setClockHz_draws (s : State) (q : Rat) : (s.setClockHz q).draws = s.draws := rfl
@[simp] theorem State.setClockHz_notes (s : State) (q : Rat) : (s.setClockHz q).notes = s.notes := rfl
@[simp] theorem State.setClockHz_reg (s : State) (q : Rat) (x : RegIdx) : (s.setClockHz q).reg x = s.reg x := rfl

/-! ## `setDraws` -/

@[simp] theorem State.setDraws_v (s : State) (k : Nat) : (s.setDraws k).v = s.v := rfl
@[simp] theorem State.setDraws_i (s : State) (k : Nat) : (s.setDraws k).i = s.i := rfl
@[simp] theorem State.setDraws_pc (s : State) (k : Nat) : (s.setDraws k).pc = s.pc := rfl
@[simp] theorem State.setDraws_stack (s : State) (k : Nat) : (s.setDraws k).stack = s.stack := rfl
@[simp] theorem State.setDraws_dt (s : State) (k : Nat) : (s.setDraws k).dt = s.dt := rfl
@[simp] theorem State.setDraws_st (s : State) (k : Nat) : (s.setDraws k).st = s.st := rfl
@[simp] theorem State.setDraws_mem (s : State) (k : Nat) : (s.setDraws k).mem = s.mem := rfl
@[simp] theorem State.setDraws_fb (s : State) (k : Nat) : (s.setDraws k).fb = s.fb := rfl
@[simp] theorem State.setDraws_key (s : State) (k : Nat) : (s.setDraws k).key = s.key := rfl
@[simp] theorem State.setDraws_pressed (s : State) (k : Nat) : (s.setDraws k).pressed = s.pressed := rfl
@[simp] theorem State.setDraws_run (s : State) (k : Nat) : (s.setDraws k).run = s.run := rfl
@[simp] theorem State.setDraws_haltCause (s : State) (k : Nat) : (s.setDraws k).haltCause = s.haltCause := rfl
@[simp] theorem State.setDraws_clockHz (s : State) (k : Nat) : (s.setDraws k).clockHz = s.clockHz := rfl
@[simp] theorem State.setDraws_initialised (s : State) (k : Nat) : (s.setDraws k).initialised = s.initialised := rfl
@[simp] theorem State.setDraws_draws (s : State) (k : Nat) : (s.setDraws k).draws = k := rfl
@[simp] theorem State.setDraws_notes (s : State) (k : Nat) : (s.setDraws k).notes = s.notes := rfl
@[simp] theorem State.setDraws_reg (s : State) (k : Nat) (x : RegIdx) : (s.setDraws k).reg x = s.reg x := rfl

/-! ## `setNotes` -/

@[simp] theorem State.setNotes_v (s : State) (l : List Notification) : (s.setNotes l).v = s.v := rfl
@[simp] theorem State.setNotes_i (s : State) (l : List Notification) : (s.setNotes l).i = s.i := rfl
@[simp] theorem State.setNotes_pc (s : State) (l : List Notification) : (s.setNotes l).pc = s.pc := rfl
@[simp] theorem State.setNotes_stack (s : State) (l : List Notification) : (s.setNotes l).stack = s.stack := rfl
@[simp] theorem State.setNotes_dt (s : State) (l : List Notification) : (s.setNotes l).dt = s.dt := rfl
@[simp] theorem State.setNotes_st (s : State) (l : List Notification) : (s.setNotes l).st = s.st := rfl
@[simp] theorem State.setNotes_mem (s : State) (l : List Notification) : (s.setNotes l).mem = s.mem := rfl
@[simp] theorem State.setNotes_fb (s : State) (l : List Notification) : (s.setNotes l).fb = s.fb := rfl
@[simp] theorem State.setNotes_key (s : State) (l : List Notification) : (s.setNotes l).key = s.key := rfl
@[simp] theorem State.setNotes_pressed (s : State) (l : List Notification) : (s.setNotes l).pressed = s.pressed := rfl
@[simp] theorem State.setNotes_run (s : State) (l : List Notification) : (s.setNotes l).run = s.run := rfl
@[simp] theorem State.setNotes_haltCause (s : State) (l : List Notification) : (s.setNotes l).haltCause = s.haltCause := rfl
@[simp] theorem State.setNotes_clockHz (s : State) (l : List Notification) : (s.setNotes l).clockHz = s.clockHz := rfl
@[simp] theorem State.setNotes_initialised (s : State) (l : List Notification) : (s.setNotes l).initialised = s.initialised := rfl
@[simp] theorem State.setNotes_draws (s : State) (l : List Notification) : (s.setNotes l).draws = s.draws := rfl
@[simp] theorem State.setNotes_notes (s : State) (l : List Notification) : (s.setNotes l).notes = l := rfl
@[simp] theorem State.setNotes_reg (s : State) (l : List Notification) (x : RegIdx) : (s.setNotes l).reg x = s.reg x := rfl

/-! ## `setReg` -/

@[simp] theorem State.setReg_i (s : State) (x : RegIdx) (b : Byte) : (s.setReg x b).i = s.i := rfl
@[simp] theorem State.setReg_pc (s : State) (x : RegIdx) (b : Byte) : (s.setReg x b).pc = s.pc := rfl
@[simp] theorem State.setReg_stack (s : State) (x : RegIdx) (b : Byte) : (s.setReg x b).stack = s.stack := rfl
@[simp] theorem State.setReg_dt (s : State) (x : RegIdx) (b : Byte) : (s.setReg x b).dt = s.dt := rfl
@[simp] theorem State.setReg_st (s : State) (x : RegIdx) (b : Byte) : (s.setReg x b).st = s.st := rfl
@[simp] theorem State.setReg_mem (s : State) (x : RegIdx) (b : Byte) : (s.setReg x b).mem = s.mem := rfl
@[simp] theorem State.setReg_fb (s : State) (x : RegIdx) (b : Byte) : (s.setReg x b).fb = s.fb := rfl
@[simp] theorem State.setReg_key (s : State) (x : RegIdx) (b : Byte) : (s.setReg x b).key = s.key := rfl
@[simp] theorem State.setReg_pressed (s : State) (x : RegIdx) (b : Byte) : (s.setReg x b).pressed = s.pressed := rfl
@[simp] theorem State.setReg_run (s : State) (x : RegIdx) (b : Byte) : (s.setReg x b).run = s.run := rfl
@[simp] theorem State.setReg_haltCause (s : State) (x : RegIdx) (b : Byte) : (s.setReg x b).haltCause = s.haltCause := rfl
@[simp] theorem State.setReg_clockHz (s : State) (x : RegIdx) (b : Byte) : (s.setReg x b).clockHz = s.clockHz := rfl
@[simp] theorem State.setReg_initialised (s : State) (x : RegIdx) (b : Byte) : (s.setReg x b).initialised = s.initialised := rfl
@[simp] theorem State.setReg_draws (s : State) (x : RegIdx) (b : Byte) : (s.setReg x b).draws = s.draws := rfl
@[simp] theorem State.setReg_notes (s : State) (x : RegIdx) (b : Byte) : (s.setReg x b).notes = s.notes := rfl
@[simp] theorem State.setReg_v (s : State) (x : RegIdx) (b : Byte) : (s.setReg x b).v = s.v.set x b := rfl

/-- A read after a write gives the value written to that register, and the old value of every other. -/
theorem State.setReg_reg (s : State) (x r : RegIdx) (b : Byte) :
    (s.setReg x b).reg r = if x = r then b else s.reg r := by
  simp [State.reg, Vector.getElem_set, Fin.ext_iff]

@[simp] theorem State.setReg_reg_self (s : State) (x : RegIdx) (b : Byte) : (s.setReg x b).reg x = b := by
  simp [State.setReg_reg]

theorem State.setReg_reg_ne (s : State) {x r : RegIdx} (b : Byte) (h : x ≠ r) :
    (s.setReg x b).reg r = s.reg r := by
  simp [State.setReg_reg, h]

@[simp] theorem State.setVF_eq (s : State) (b : Byte) : s.setVF b = s.setReg vf b := rfl

theorem State.reg_setV (s : State) (v : Regs) (x : RegIdx) : (s.setV v).reg x = v[x] := rfl

/-! ## `halt` -/

@[simp] theorem State.halt_v (s : State) (f : Fault) : (s.halt f).v = s.v := rfl
@[simp] theorem State.halt_i (s : State) (f : Fault) : (s.halt f).i = s.i := rfl
@[simp] theorem State.halt_pc (s : State) (f : Fault) : (s.halt f).pc = s.pc := rfl
@[simp] theorem State.halt_stack (s : State) (f : Fault) : (s.halt f).stack = s.stack := rfl
@[simp] theorem State.halt_dt (s : State) (f : Fault) : (s.halt f).dt = s.dt := rfl
@[simp] theorem State.halt_st (s : State) (f : Fault) : (s.halt f).st = s.st := rfl
@[simp] theorem State.halt_mem (s : State) (f : Fault) : (s.halt f).mem = s.mem := rfl
@[simp] theorem State.halt_fb (s : State) (f : Fault) : (s.halt f).fb = s.fb := rfl
@[simp] theorem State.halt_key (s : State) (f : Fault) : (s.halt f).key = s.key := rfl
@[simp] theorem State.halt_pressed (s : State) (f : Fault) : (s.halt f).pressed = s.pressed := rfl
@[simp] theorem State.halt_run (s : State) (f : Fault) : (s.halt f).run = .paused := rfl
@[simp] theorem State.halt_haltCause (s : State) (f : Fault) : (s.halt f).haltCause = f.cause := rfl
@[simp] theorem State.halt_clockHz (s : State) (f : Fault) : (s.halt f).clockHz = s.clockHz := rfl
@[simp] theorem State.halt_initialised (s : State) (f : Fault) : (s.halt f).initialised = s.initialised := rfl
@[simp] theorem State.halt_draws (s : State) (f : Fault) : (s.halt f).draws = s.draws := rfl
@[simp] theorem State.halt_notes (s : State) (f : Fault) : (s.halt f).notes = [.log f] := rfl
@[simp] theorem State.halt_reg (s : State) (f : Fault) (x : RegIdx) : (s.halt f).reg x = s.reg x := rfl

/-! ## `endCycle` -/

@[simp] theorem State.endCycle_v (s : State) (a : Word) : (s.endCycle a).v = s.v := rfl
@[simp] theorem State.endCycle_i (s : State) (a : Word) : (s.endCycle a).i = s.i := rfl
@[simp] theorem State.endCycle_pc (s : State) (a : Word) : (s.endCycle a).pc = a := rfl
@[simp] theorem State.endCycle_stack (s : State) (a : Word) : (s.endCycle a).stack = s.stack := rfl
@[simp] theorem State.endCycle_dt (s : State) (a : Word) : (s.endCycle a).dt = tickDown s.dt := rfl
@[simp] theorem State.endCycle_st (s : State) (a : Word) : (s.endCycle a).st = s.st := rfl
@[simp] theorem State.endCycle_mem (s : State) (a : Word) : (s.endCycle a).mem = s.mem := rfl
@[simp] theorem State.endCycle_fb (s : State) (a : Word) : (s.endCycle a).fb = s.fb := rfl
@[simp] theorem State.endCycle_key (s : State) (a : Word) : (s.endCycle a).key = s.key := rfl
@[simp] theorem State.endCycle_pressed (s : State) (a : Word) : (s.endCycle a).pressed = false := rfl
@[simp] theorem State.endCycle_run (s : State) (a : Word) : (s.endCycle a).run = s.run := rfl
@[simp] theorem State.endCycle_haltCause (s : State) (a : Word) : (s.endCycle a).haltCause = s.haltCause := rfl
@[simp] theorem State.endCycle_clockHz (s : State) (a : Word) : (s.endCycle a).clockHz = s.clockHz := rfl
@[simp] theorem State.endCycle_initialised (s : State) (a : Word) : (s.endCycle a).initialised = s.initialised := rfl
@[simp] theorem State.endCycle_draws (s : State) (a : Word) : (s.endCycle a).draws = s.draws := rfl
@[simp] theorem State.endCycle_notes (s : State) (a : Word) : (s.endCycle a).notes = 
      [.frame s.fb, .registers s.v s.i a s.mem, .endOfCycle] := rfl
@[simp] theorem State.endCycle_reg (s : State) (a : Word) (x : RegIdx) : (s.endCycle a).reg x = s.reg x := rfl

/-! ## `start` and `pause` -/

@[simp] theorem State.start_run (s : State) : s.start.run = .running := rfl
@[simp] theorem State.start_haltCause (s : State) : s.start.haltCause = .none := rfl
@[simp] theorem State.pause_run (s : State) : s.pause.run = .paused := rfl
@[simp] theorem State.pause_haltCause (s : State) : s.pause.haltCause = s.haltCause := rfl

end Sys2Proof.Machine
end

