-- ==== Sys2Proof/Laws/Encoding.lean ====
section
/-! SUPPORT. The fields of a word and the encoding formats as numbers, and that the decoder's field reads what the
encoder put there. -/

namespace Sys2Proof

/-! ## Fields as numbers (30_encoding.md rule R81) -/

theorem fieldG_eq (w : Word) : fieldG w = w.toNat / 4096 := by
  have := w.isLt
  simp [fieldG, Nat.shiftRight_eq_div_pow]; omega

theorem fieldX_val (w : Word) : (fieldX w).val = w.toNat / 256 % 16 := by
  simp [fieldX, Nat.shiftRight_eq_div_pow]

theorem fieldY_val (w : Word) : (fieldY w).val = w.toNat / 16 % 16 := by
  simp [fieldY, Nat.shiftRight_eq_div_pow]

theorem fieldN_eq (w : Word) : fieldN w = w.toNat % 16 := by
  simp [fieldN]

theorem fieldNNN_toNat (w : Word) : (fieldNNN w).toNat = w.toNat % 4096 := by
  simp [fieldNNN]

theorem fieldKK_toNat (w : Word) : (fieldKK w).toNat = w.toNat % 256 := by
  simp [fieldKK]

/-! ## Formats as numbers (rule R82) -/

theorem toNat_append_add {m n : Nat} (a : BitVec m) (b : BitVec n) : (a ++ b).toNat = a.toNat * 2 ^ n + b.toNat := by
  rw [BitVec.toNat_append, ← Nat.shiftLeft_add_eq_or_of_lt b.isLt, Nat.shiftLeft_eq]

theorem formatA_toNat (g : BitVec 4) (nnn : BitVec 12) : (formatA g nnn).toNat = g.toNat * 4096 + nnn.toNat :=
  toNat_append_add (n := 12) g nnn

theorem formatK_toNat (g : BitVec 4) (x : RegIdx) (kk : Byte) :
    (formatK g x kk).toNat = g.toNat * 4096 + x.val * 256 + kk.toNat := by
  rw [formatK, toNat_append_add, toNat_append_add, show (BitVec.ofFin x : BitVec 4).toNat = x.val from rfl]
  ring

theorem formatR_toNat (g : BitVec 4) (x y : RegIdx) (n : BitVec 4) :
    (formatR g x y n).toNat = g.toNat * 4096 + x.val * 256 + y.val * 16 + n.toNat := by
  rw [formatR, wordOfNibbles, toNat_append_add, toNat_append_add, toNat_append_add,
    show (BitVec.ofFin x : BitVec 4).toNat = x.val from rfl, show (BitVec.ofFin y : BitVec 4).toNat = y.val from rfl]
  ring

/-! ## What the decoder's fields read of a format -/

theorem fieldG_formatA (g : BitVec 4) (nnn : BitVec 12) : fieldG (formatA g nnn) = g.toNat := by
  rw [fieldG_eq, formatA_toNat]; omega

theorem fieldNNN_formatA (g : BitVec 4) (nnn : BitVec 12) : fieldNNN (formatA g nnn) = nnn := by
  apply BitVec.eq_of_toNat_eq
  rw [fieldNNN_toNat, formatA_toNat]; omega

theorem fieldG_formatK (g : BitVec 4) (x : RegIdx) (kk : Byte) : fieldG (formatK g x kk) = g.toNat := by
  rw [fieldG_eq, formatK_toNat]; omega

theorem fieldX_formatK (g : BitVec 4) (x : RegIdx) (kk : Byte) : fieldX (formatK g x kk) = x := by
  apply Fin.ext
  rw [fieldX_val, formatK_toNat]; omega

theorem fieldKK_formatK (g : BitVec 4) (x : RegIdx) (kk : Byte) : fieldKK (formatK g x kk) = kk := by
  apply BitVec.eq_of_toNat_eq
  rw [fieldKK_toNat, formatK_toNat]; omega

theorem fieldG_formatR (g : BitVec 4) (x y : RegIdx) (n : BitVec 4) : fieldG (formatR g x y n) = g.toNat := by
  rw [fieldG_eq, formatR_toNat]; omega

theorem fieldX_formatR (g : BitVec 4) (x y : RegIdx) (n : BitVec 4) : fieldX (formatR g x y n) = x := by
  apply Fin.ext
  rw [fieldX_val, formatR_toNat]; omega

theorem fieldY_formatR (g : BitVec 4) (x y : RegIdx) (n : BitVec 4) : fieldY (formatR g x y n) = y := by
  apply Fin.ext
  rw [fieldY_val, formatR_toNat]; omega

theorem fieldN_formatR (g : BitVec 4) (x y : RegIdx) (n : BitVec 4) : fieldN (formatR g x y n) = n.toNat := by
  rw [fieldN_eq, formatR_toNat]; omega

/-! ## The three masks of the opcode map (30_encoding.md rule R86) -/

theorem mask_group (w : Word) : (w &&& 0xF000).toNat = fieldG w * 4096 := by
  have : w &&& 0xF000 = w.extractLsb' 12 4 ++ 0#12 := by
    apply BitVec.eq_of_getLsbD_eq; intro k hk
    rw [BitVec.getLsbD_append]
    interval_cases k <;> simp
  rw [this, toNat_append_add]; simp [fieldG]

theorem mask_group_nibble (w : Word) : (w &&& 0xF00F).toNat = fieldG w * 4096 + fieldN w := by
  have : w &&& 0xF00F = w.extractLsb' 12 4 ++ (0#8 ++ w.extractLsb' 0 4) := by
    apply BitVec.eq_of_getLsbD_eq; intro k hk
    rw [BitVec.getLsbD_append, BitVec.getLsbD_append]
    interval_cases k <;> simp
  rw [this, toNat_append_add, toNat_append_add]; simp [fieldG, fieldN]

theorem mask_group_byte (w : Word) : (w &&& 0xF0FF).toNat = fieldG w * 4096 + (fieldKK w).toNat := by
  have : w &&& 0xF0FF = w.extractLsb' 12 4 ++ (0#4 ++ w.extractLsb' 0 8) := by
    apply BitVec.eq_of_getLsbD_eq; intro k hk
    rw [BitVec.getLsbD_append, BitVec.getLsbD_append]
    interval_cases k <;> simp
  rw [this, toNat_append_add, toNat_append_add]; simp [fieldG, fieldKK]

/-- A row with the group mask is selected by the words of its group. -/
theorem selects_group (m : String) (bits c : Word) (w : Word) (h : fieldG w * 4096 = bits.toNat) :
    (OpcodeRow.mk m 0xF000 bits c).selects w = true := by
  simp only [OpcodeRow.selects, beq_iff_eq]
  exact BitVec.eq_of_toNat_eq (by rw [mask_group, h])

/-- A row with the group and low-nibble mask. -/
theorem selects_group_nibble (m : String) (bits c : Word) (w : Word)
    (h : fieldG w * 4096 + fieldN w = bits.toNat) : (OpcodeRow.mk m 0xF00F bits c).selects w = true := by
  simp only [OpcodeRow.selects, beq_iff_eq]
  exact BitVec.eq_of_toNat_eq (by rw [mask_group_nibble, h])

/-- A row with the group and low-byte mask. -/
theorem selects_group_byte (m : String) (bits c : Word) (w : Word)
    (h : fieldG w * 4096 + (fieldKK w).toNat = bits.toNat) : (OpcodeRow.mk m 0xF0FF bits c).selects w = true := by
  simp only [OpcodeRow.selects, beq_iff_eq]
  exact BitVec.eq_of_toNat_eq (by rw [mask_group_byte, h])

/-! ## Bytes of a word (20_memory.md rule R52) -/

/-- Splitting a word into the bytes it is stored as and joining them gives the word back. -/
theorem wordOfBytes_split (w : Word) : wordOfBytes (highByte w) (lowByte w) = w := by
  apply BitVec.eq_of_toNat_eq
  have h : (wordOfBytes (highByte w) (lowByte w)).toNat = (highByte w).toNat * 2 ^ 8 + (lowByte w).toNat :=
    toNat_append_add _ _
  have := w.isLt
  rw [h]
  simp [highByte, lowByte, Nat.shiftRight_eq_div_pow]
  omega

end Sys2Proof
end

