-- ==== Sys2Proof/Laws/Memory.lean ====
section
/-! SUPPORT. The laws of memory: a read after a write, and that every memory operation keeps the canonical form. -/

namespace Sys2Proof.Machine

/-! ## Reads -/

theorem Memory.read_without_self (m : Memory) (a : Nat) : (m.without a).read a = Memory.resetByte a := by
  induction m with
  | nil => rfl
  | cons c rest ih =>
    obtain ⟨b, w⟩ := c
    by_cases h : b = a
    · simpa [Memory.without, h] using ih
    · simpa [Memory.without, h, Memory.read] using ih

theorem Memory.read_without_ne (m : Memory) {a b : Nat} (h : b ≠ a) : (m.without a).read b = m.read b := by
  induction m with
  | nil => rfl
  | cons c rest ih =>
    obtain ⟨d, w⟩ := c
    by_cases hd : d = a
    · subst hd
      simpa [Memory.without, Memory.read, Ne.symm h] using ih
    · by_cases hb : d = b <;> simp_all [Memory.without, Memory.read]

theorem Memory.read_place_self (m : Memory) (a : Nat) (w : Byte) (h : ∀ c ∈ m, c.1 ≠ a) :
    (Memory.place m a w).read a = w := by
  induction m with
  | nil => simp [Memory.place, Memory.read]
  | cons c rest ih =>
    obtain ⟨b, u⟩ := c
    have hb : b ≠ a := h (b, u) List.mem_cons_self
    have hr : ∀ c ∈ rest, c.1 ≠ a := fun c hc => h c (List.mem_cons_of_mem _ hc)
    by_cases hlt : a < b <;> simp [Memory.place, Memory.read, hlt, hb, ih hr]

theorem Memory.read_place_ne (m : Memory) {a b : Nat} (w : Byte) (h : b ≠ a) :
    (Memory.place m a w).read b = m.read b := by
  induction m with
  | nil => simp [Memory.place, Memory.read, Ne.symm h]
  | cons c rest ih =>
    obtain ⟨d, u⟩ := c
    rw [Memory.place]
    by_cases hlt : a < d
    · simp [hlt, Memory.read, Ne.symm h]
    · simp [hlt, Memory.read, ih]

theorem Memory.without_ne (m : Memory) (a : Nat) : ∀ c ∈ m.without a, c.1 ≠ a := by
  intro c hc
  simpa using (List.mem_filter.mp hc).2

/-- A read at the address written gives the byte written. -/
@[simp] theorem Memory.read_write_self (m : Memory) (a : Nat) (w : Byte) : (m.write a w).read a = w := by
  unfold Memory.write
  split
  · next h => rw [Memory.read_without_self, h]
  · exact Memory.read_place_self _ _ _ (Memory.without_ne m a)

/-- A write leaves every other address as it was. -/
theorem Memory.read_write_ne (m : Memory) {a b : Nat} (w : Byte) (h : b ≠ a) : (m.write a w).read b = m.read b := by
  unfold Memory.write
  split
  · exact Memory.read_without_ne m h
  · rw [Memory.read_place_ne _ _ h, Memory.read_without_ne m h]

/-- Writing consecutive bytes leaves every address outside them as it was. -/
theorem Memory.read_writeBytes_outside (m : Memory) (a : Nat) (ws : List Byte) {b : Nat}
    (h : b < a ∨ a + ws.length ≤ b) : (m.writeBytes a ws).read b = m.read b := by
  induction ws generalizing m a with
  | nil => rfl
  | cons w ws ih =>
    simp only [List.length_cons] at h
    rw [Memory.writeBytes, ih _ _ (by omega), Memory.read_write_ne _ _ (by omega)]

/-- The `k`-th of the bytes written is read at the `k`-th address. -/
theorem Memory.read_writeBytes_inside (m : Memory) (a : Nat) (ws : List Byte) (k : Nat) (h : k < ws.length) :
    (m.writeBytes a ws).read (a + k) = ws[k] := by
  induction ws generalizing m a k with
  | nil => simp at h
  | cons w ws ih =>
    cases k with
    | zero => rw [Memory.writeBytes, Memory.read_writeBytes_outside _ _ _ (by omega)]; simp
    | succ k =>
      have := ih (m.write a w) (a + 1) k (by simpa using h)
      rw [Memory.writeBytes, show a + (k + 1) = a + 1 + k by omega, this]; simp

/-! ## The canonical form -/

theorem Memory.wfFrom_mono {lo lo' : Nat} {m : Memory} (hle : lo' ≤ lo) (h : Memory.wfFrom lo m = true) :
    Memory.wfFrom lo' m = true := by
  cases m with
  | nil => rfl
  | cons c rest => simp_all [Memory.wfFrom]; omega

theorem Memory.wfFrom_without {lo : Nat} {m : Memory} (a : Nat) (h : Memory.wfFrom lo m = true) :
    Memory.wfFrom lo (m.without a) = true := by
  induction m generalizing lo with
  | nil => rfl
  | cons c rest ih =>
    obtain ⟨b, w⟩ := c
    simp only [Memory.wfFrom, Bool.and_eq_true, decide_eq_true_eq] at h
    obtain ⟨⟨⟨hlo, hb⟩, hw⟩, hr⟩ := h
    by_cases hba : b = a
    · have : (Memory.without ((b, w) :: rest) a) = Memory.without rest a := by simp [Memory.without, hba]
      rw [this]
      exact Memory.wfFrom_mono (by omega) (ih hr)
    · have : (Memory.without ((b, w) :: rest) a) = (b, w) :: Memory.without rest a := by simp [Memory.without, hba]
      rw [this]
      simp [Memory.wfFrom, hlo, hb, hw, ih hr]

theorem Memory.wfFrom_place {lo : Nat} {m : Memory} {a : Nat} {w : Byte} (h : Memory.wfFrom lo m = true)
    (hlo : lo ≤ a) (ha : a < Config.memSize) (hw : w ≠ Memory.resetByte a) (hm : ∀ c ∈ m, c.1 ≠ a) :
    Memory.wfFrom lo (Memory.place m a w) = true := by
  induction m generalizing lo with
  | nil => simp [Memory.place, Memory.wfFrom, hlo, ha, hw]
  | cons c rest ih =>
    obtain ⟨b, u⟩ := c
    have hb : b ≠ a := hm (b, u) List.mem_cons_self
    have hr : ∀ c ∈ rest, c.1 ≠ a := fun c hc => hm c (List.mem_cons_of_mem _ hc)
    simp only [Memory.wfFrom, Bool.and_eq_true, decide_eq_true_eq] at h
    obtain ⟨⟨⟨hlob, hbm⟩, hu⟩, hrest⟩ := h
    by_cases hlt : a < b
    · simp [Memory.place, hlt, Memory.wfFrom, hlo, ha, hw, hbm, hu, hrest]
    · simp [Memory.place, hlt, Memory.wfFrom, hlob, hbm, hu, ih hrest (by omega) hr]

/-- A write below `MEM_SIZE` keeps the canonical form. -/
theorem Memory.wf_write {m : Memory} {a : Nat} (w : Byte) (h : m.wf = true) (ha : a < Config.memSize) :
    (m.write a w).wf = true := by
  unfold Memory.write
  split
  · exact Memory.wfFrom_without a h
  · next hw => exact Memory.wfFrom_place (Memory.wfFrom_without a h) (Nat.zero_le a) ha hw (Memory.without_ne m a)

/-- Writing consecutive bytes below `MEM_SIZE` keeps the canonical form. -/
theorem Memory.wf_writeBytes {m : Memory} {a : Nat} {ws : List Byte} (h : m.wf = true)
    (ha : a + ws.length ≤ Config.memSize) : (m.writeBytes a ws).wf = true := by
  induction ws generalizing m a with
  | nil => exact h
  | cons w ws ih =>
    simp only [List.length_cons] at ha
    exact ih (Memory.wf_write w h (by omega)) (by omega)

/-- Memory as `Initialize` leaves it is in canonical form. -/
theorem State.reset_mem_wf : State.reset.mem.wf = true := rfl

/-! ## The bounds test -/

/-- The bounds test passes when the whole range lies below `MEM_SIZE`. -/
theorem firstOutside_none {base n : Nat} (h : n = 0 ∨ base + n ≤ Config.memSize) : firstOutside base n = none := by
  have : ¬ (1 ≤ n ∧ Config.memSize - 1 < base + (n - 1)) := by simp only [Config.memSize] at *; omega
  simp [firstOutside, this]

/-- It fails at the lowest address above 0xFFF otherwise. -/
theorem firstOutside_some {base n : Nat} (hn : 1 ≤ n) (h : Config.memSize < base + n) :
    firstOutside base n = some (max base Config.memSize) := by
  have : 1 ≤ n ∧ Config.memSize - 1 < base + (n - 1) := by simp only [Config.memSize] at *; omega
  simp [firstOutside, this]

/-- What the bounds test can answer. -/
theorem firstOutside_cases (base n : Nat) :
    (firstOutside base n = none ∧ (n = 0 ∨ base + n ≤ Config.memSize)) ∨
      (firstOutside base n = some (max base Config.memSize) ∧ 1 ≤ n ∧ Config.memSize < base + n) := by
  by_cases h : n = 0 ∨ base + n ≤ Config.memSize
  · exact .inl ⟨firstOutside_none h, h⟩
  · have hn : 1 ≤ n := by omega
    have hb : Config.memSize < base + n := by omega
    exact .inr ⟨firstOutside_some hn hb, hn, hb⟩

end Sys2Proof.Machine
end

