-- ==== Sys2Proof/Laws/Screen.lean ====
section
/-! SUPPORT. The laws of the framebuffer: what a toggle and a clear do to each pixel. -/

namespace Sys2Proof.Machine

/-- Every pixel of a cleared screen is 0. -/
@[simp] theorem Framebuffer.pixel_blank (x y : Nat) : Framebuffer.blank.pixel x y = false := by
  simp [Framebuffer.pixel, Framebuffer.blank]

/-- A column past the right edge holds no pixel. -/
theorem Framebuffer.pixel_right (f : Framebuffer) {x : Nat} (y : Nat) (h : 64 ≤ x) : f.pixel x y = false := by
  unfold Framebuffer.pixel
  split
  · exact BitVec.getLsbD_of_ge _ _ h
  · rfl

/-- A row past the bottom edge holds no pixel. -/
theorem Framebuffer.pixel_below (f : Framebuffer) (x : Nat) {y : Nat} (h : 32 ≤ y) : f.pixel x y = false := by
  simp [Framebuffer.pixel, Nat.not_lt.mpr h]

/-- A toggle on the grid inverts that pixel and no other. -/
theorem Framebuffer.pixel_toggle (f : Framebuffer) {x y : Nat} (hx : x < 64) (hy : y < 32) (x' y' : Nat) :
    (f.toggle x y).pixel x' y' = if x' = x ∧ y' = y then !f.pixel x y else f.pixel x' y' := by
  by_cases hy' : y' < 32
  · by_cases h : y = y'
    · subst h
      by_cases h2 : x' = x
      · subst h2
        simp [Framebuffer.pixel, Framebuffer.toggle, hy, hx]
      · have : ¬ x = x' := fun e => h2 e.symm
        simp [Framebuffer.pixel, Framebuffer.toggle, hy, BitVec.getLsbD_twoPow, h2, this]
    · have h3 : ¬ y' = y := fun e => h e.symm
      simp [Framebuffer.pixel, Framebuffer.toggle, hy, hy', h, h3]
  · have h3 : ¬ y' = y := by omega
    simp [Framebuffer.pixel, hy', h3]

/-- Two framebuffers with the same pixels are equal. -/
theorem Framebuffer.ext_pixel {f g : Framebuffer}
    (h : ∀ x y, x < 64 → y < 32 → f.pixel x y = g.pixel x y) : f = g := by
  apply Vector.ext
  intro y hy
  apply BitVec.eq_of_getLsbD_eq
  intro x hx
  simpa [Framebuffer.pixel, hy] using h x y hx hy

/-- What drawing one set bit does: on the grid the pixel is toggled and a set pixel is a collision; off it nothing. -/
theorem Canvas.plot_cases (c : Canvas) (x y : Nat) :
    (x ≤ 63 ∧ y ≤ 31 ∧ c.plot x y = ⟨c.fb.toggle x y, c.collision || c.fb.pixel x y⟩) ∨
      (¬ (x ≤ 63 ∧ y ≤ 31) ∧ c.plot x y = c) := by
  unfold Canvas.plot
  by_cases h : x ≤ 63 ∧ y ≤ 31
  · exact .inl ⟨h.1, h.2, by rw [if_pos h]⟩
  · exact .inr ⟨h, by rw [if_neg h]⟩

end Sys2Proof.Machine
end

