-- ==== Sys2Proof/Laws/Ops.lean ====
section
/-! SUPPORT. One lemma for each shared operation of the machine that says once everything it can do. -/

namespace Sys2Proof.Machine

/-! ## Ending a cycle and taking a fault -/

/-- Completing a cycle always answers a next state, and only this one. -/
@[simp] theorem complete_next (a : Word) (s t : State) : complete a s = .next t ↔ s.endCycle a = t := by
  simp [complete]

@[simp] theorem completeSeq_next (s t : State) : completeSeq s = .next t ↔ s.endCycle (s.pc + 2) = t := by
  simp [completeSeq]

@[simp] theorem completeSkip_next (b : Bool) (s t : State) :
    completeSkip b s = .next t ↔ s.endCycle (if b then s.pc + 4 else s.pc + 2) = t := by
  simp [completeSkip]

/-- Taking a fault always answers the halted state. -/
@[simp] theorem raise_next (f : Fault) (s t : State) : raise f s = .next t ↔ s.halt f = t := by
  simp [raise]

/-- A completed cycle raised no fault. -/
@[simp] theorem State.endCycle_lastFault (s : State) (a : Word) : (s.endCycle a).lastFault = none := rfl

/-- A halted cycle raised its fault. -/
@[simp] theorem State.halt_lastFault (s : State) (f : Fault) : (s.halt f).lastFault = some f := rfl

/-- A fault leaves a halted machine. -/
theorem State.halt_halted (s : State) (f : Fault) : (s.halt f).Halted := by
  refine ⟨rfl, ?_⟩
  cases f <;> simp [Fault.cause]

/-- A fault leaves what rule R266 says. -/
theorem State.halt_haltedBy (s : State) (f : Fault) : HaltedBy f s (s.halt f) :=
  ⟨rfl, rfl, rfl, rfl, rfl, rfl, rfl, rfl, rfl, rfl, rfl, rfl, rfl, rfl, rfl, rfl⟩

/-- What guarding a range can do: run the body when the range exists, else raise MemOutOfBounds at the first address
above 0xFFF. -/
theorem guardRange_cases (base n : Nat) (s : State) (body : Result) :
    ((n = 0 ∨ base + n ≤ Config.memSize) ∧ guardRange base n s body = body) ∨
      (1 ≤ n ∧ Config.memSize < base + n ∧
        guardRange base n s body = raise (.memOutOfBounds (max base Config.memSize) s.pc) s) := by
  rcases firstOutside_cases base n with ⟨h, hr⟩ | ⟨h, hn, hb⟩
  · exact .inl ⟨hr, by simp [guardRange, h]⟩
  · exact .inr ⟨hn, hb, by simp [guardRange, h]⟩

/-- A range that exists passes the guard. -/
theorem guardRange_inside {base n : Nat} (s : State) (body : Result) (h : n = 0 ∨ base + n ≤ Config.memSize) :
    guardRange base n s body = body := by
  simp [guardRange, firstOutside_none h]

/-- A range that does not exist raises. -/
theorem guardRange_outside {base n : Nat} (s : State) (body : Result) (hn : 1 ≤ n) (h : Config.memSize < base + n) :
    guardRange base n s body = raise (.memOutOfBounds (max base Config.memSize) s.pc) s := by
  simp [guardRange, firstOutside_some hn h]

/-- One count of a timer, as numbers. -/
theorem tickDown_toNat (n : Byte) : (tickDown n).toNat = n.toNat - 1 := by
  unfold tickDown
  by_cases h : n = 0
  · simp [h]
  · have h0 : n.toNat ≠ 0 := fun e => h (BitVec.eq_of_toNat_eq (by simpa using e))
    have hlt := n.isLt
    simp only [h, if_false, BitVec.toNat_sub]
    simp
    omega

/-- The end of a cycle as the frames say it. -/
theorem State.endCycle_cycleEnd (s : State) (a : Word) : CycleEnd s (s.endCycle a) :=
  ⟨rfl, rfl, rfl, rfl, rfl, rfl⟩

/-! ## The call stack -/

/-- `pop` takes the newest entry, or fails on the empty stack. -/
theorem State.pop?_cases (s : State) :
    (s.stack = [] ∧ s.pop? = none) ∨ ∃ a rest, s.stack = a :: rest ∧ s.pop? = some (a, s.setStack rest) := by
  unfold State.pop?
  cases h : s.stack with
  | nil => exact .inl ⟨rfl, rfl⟩
  | cons a rest => exact .inr ⟨a, rest, rfl, rfl⟩

/-- `push` on an unbounded stack never fails. -/
@[simp] theorem State.push?_unbounded (a : Word) (s : State) :
    s.push? none a = some (s.setStack (a :: s.stack)) := by
  simp [State.push?]

/-- `push` fails exactly on a full stack. -/
theorem State.push?_bounded (d : Nat) (a : Word) (s : State) :
    s.push? (some d) a = if s.stack.length = d then none else some (s.setStack (a :: s.stack)) := by
  simp [State.push?, eq_comm]

/-! ## Loading registers -/

/-- Loading registers changes registers only. -/
theorem State.loadRegs_setV (m : Memory) (base : Nat) (rs : List RegIdx) (s : State) :
    State.loadRegs m base rs s = s.setV (State.loadRegs m base rs s).v := by
  induction rs generalizing s with
  | nil => rfl
  | cons r rs ih => rw [State.loadRegs, ih]; rfl

/-- A register named once or more holds its byte of memory; every other one is as before. -/
theorem State.loadRegs_reg (m : Memory) (base : Nat) (rs : List RegIdx) (s : State) (r : RegIdx) :
    (State.loadRegs m base rs s).reg r = if r ∈ rs then m.read (base + r.val) else s.reg r := by
  induction rs generalizing s with
  | nil => rfl
  | cons q rs ih =>
    rw [State.loadRegs, ih]
    by_cases h : r ∈ rs
    · simp [h]
    · by_cases hq : q = r
      · subst hq; simp [h]
      · simp [h, State.setReg_reg_ne _ _ hq, Ne.symm hq]

/-- Which registers `0..=x` names. -/
theorem mem_regsUpTo (x r : RegIdx) : r ∈ regsUpTo x ↔ r ≤ x := by
  revert x r; decide

theorem regsUpTo_length (x : RegIdx) : (regsUpTo x).length = x.val + 1 := by
  revert x; decide

/-- The `k`-th register of `0..=x` is `V[k]`. -/
theorem regsUpTo_getElem (x k : RegIdx) (h : k.val < (regsUpTo x).length) : (regsUpTo x)[k.val] = k := by
  revert x k; decide

end Sys2Proof.Machine
end

