-- ==== Sys2Proof/Laws/Exec.lean ====
section
/-! SUPPORT. What each instruction whose cycle has more than one way to end can answer, said once; the others are
`complete`, `completeSeq` or `completeSkip` as they stand. And what a step can do (45_cycle_driver_and_host.md rule
R220). -/

namespace Sys2Proof.Machine

/-- RET pops and goes on, or raises on the empty stack. -/
theorem execRet_cases (s : State) :
    (s.stack = [] ∧ execRet s = raise (.stackUnderflow s.pc) s) ∨
      ∃ a rest, s.stack = a :: rest ∧ execRet s = complete a (s.setStack rest) := by
  rcases s.pop?_cases with ⟨h, hp⟩ | ⟨a, rest, h, hp⟩
  · exact .inl ⟨h, by simp [execRet, hp]⟩
  · exact .inr ⟨a, rest, h, by simp [execRet, hp]⟩

/-- CALL at the default `STACK_DEPTH` always pushes and jumps. -/
theorem execCallNnn_eq (nnn : BitVec 12) (s : State) :
    execCallNnn nnn s = complete (addrWord nnn) (s.setStack ((s.pc + 2) :: s.stack)) := rfl

/-- LD VX,K takes the key or waits. -/
theorem execLdVxK_cases (x : RegIdx) (s : State) :
    (s.pressed = true ∧ execLdVxK x s = completeSeq (s.setReg x s.key)) ∨
      (s.pressed = false ∧ execLdVxK x s = complete s.pc s) := by
  cases h : s.pressed
  · exact .inr ⟨rfl, by simp [execLdVxK, h]⟩
  · exact .inl ⟨rfl, by simp [execLdVxK, h, writeReg]⟩

/-- A store at `I` writes all its bytes, or raises and writes none. -/
theorem storeAtI_cases (ws : List Byte) (s : State) :
    ((ws.length = 0 ∨ s.base + ws.length ≤ Config.memSize) ∧
        storeAtI ws s = completeSeq (s.setMem (s.mem.writeBytes s.base ws))) ∨
      (1 ≤ ws.length ∧ Config.memSize < s.base + ws.length ∧
        storeAtI ws s = raise (.memOutOfBounds (max s.base Config.memSize) s.pc) s) :=
  guardRange_cases _ _ _ _

@[simp] theorem bcdDigits_length (b : Byte) : (bcdDigits b).length = 3 := rfl

@[simp] theorem State.dumpBytes_length (s : State) (x : RegIdx) : (s.dumpBytes x).length = x.val + 1 := by
  simp [State.dumpBytes, regsUpTo_length]

/-- The `k`-th byte of a dump is `V[k]`. -/
theorem State.dumpBytes_getElem (s : State) (x r : RegIdx) (h : r.val < (s.dumpBytes x).length) :
    (s.dumpBytes x)[r.val] = s.reg r := by
  simp [State.dumpBytes, regsUpTo_getElem]

/-- LD VX,[I] loads all its registers, or raises and loads none. -/
theorem execLdVxMem_cases (x : RegIdx) (s : State) :
    (s.base + (x.val + 1) ≤ Config.memSize ∧
        execLdVxMem x s = completeSeq (s.setV (State.loadRegs s.mem s.base (regsUpTo x) s).v)) ∨
      (Config.memSize < s.base + (x.val + 1) ∧
        execLdVxMem x s = raise (.memOutOfBounds (max s.base Config.memSize) s.pc) s) := by
  rw [execLdVxMem, State.loadRegs_setV]
  rcases guardRange_cases s.base (x.val + 1) s
    (completeSeq (s.setV (State.loadRegs s.mem s.base (regsUpTo x) s).v)) with ⟨h, he⟩ | ⟨_, h, he⟩
  · exact .inl ⟨by omega, he⟩
  · exact .inr ⟨h, he⟩

/-- DRW draws and sets `VF`, or raises and does neither. -/
theorem execDrwVxVyN_cases (x y : RegIdx) (n : Nat) (s : State) :
    ((n = 0 ∨ s.base + n ≤ Config.memSize) ∧
        execDrwVxVyN x y n s =
          completeSeq ((s.setFb (s.drawn x y n).fb).setReg vf (flagByte (s.drawn x y n).collision))) ∨
      (1 ≤ n ∧ Config.memSize < s.base + n ∧
        execDrwVxVyN x y n s = raise (.memOutOfBounds (max s.base Config.memSize) s.pc) s) :=
  guardRange_cases _ _ _ _

/-- The fetch gives the word at `PC`, or nothing where the second byte would lie past the end of memory. -/
theorem State.fetch?_cases (s : State) :
    (0xFFF ≤ s.pc.toNat ∧ s.fetch? = none) ∨ (s.pc.toNat < 0xFFF ∧ s.fetch? = some s.wordAtPc) := by
  have hm : Config.memSize - 1 = 0xFFF := rfl
  by_cases h : 0xFFF ≤ s.pc.toNat
  · exact .inl ⟨h, by rw [State.fetch?, hm, if_pos h]⟩
  · exact .inr ⟨by omega, by rw [State.fetch?, hm, if_neg h]; rfl⟩

/-- What a step can do: be refused before the first `Initialize`, fault in FETCH, fault in DECODE, or run the decoded
instruction. -/
theorem step_cases (s : State) :
    (s.initialised = false ∧ step s = .refused .notInitialised) ∨
      (s.initialised = true ∧ 0xFFF ≤ s.pc.toNat ∧ step s = raise (.pcOutOfBounds s.pc) s) ∨
      (s.initialised = true ∧ s.pc.toNat < 0xFFF ∧ decodeWord s.wordAtPc = none ∧
        step s = raise (.unknownOpcode s.wordAtPc s.pc) s) ∨
      (s.initialised = true ∧ s.pc.toNat < 0xFFF ∧
        ∃ i, decodeWord s.wordAtPc = some i ∧ step s = exec i s) := by
  cases hi : s.initialised
  · exact .inl ⟨rfl, by simp [step, cycle, hi]⟩
  · rcases s.fetch?_cases with ⟨hp, hf⟩ | ⟨hp, hf⟩
    · exact .inr (.inl ⟨rfl, hp, by simp [step, cycle, hi, hf]⟩)
    · cases hd : decodeWord s.wordAtPc with
      | none => exact .inr (.inr (.inl ⟨rfl, hp, rfl, by simp [step, cycle, hi, hf, hd]⟩))
      | some i => exact .inr (.inr (.inr ⟨rfl, hp, i, rfl, by simp [step, cycle, hi, hf, hd]⟩))

/-- What `loadRom` can do. -/
theorem State.loadRomWith_cases (p : RomOverflowPolicy) (bytes : List Byte) (s : State) :
    (bytes.length ≤ 3584 ∧ s.loadRomWith p bytes = s.setMem (s.mem.writeBytes 0x200 bytes)) ∨
      (3584 < bytes.length ∧ p = .truncate ∧
        s.loadRomWith p bytes = s.setMem (s.mem.writeBytes 0x200 (bytes.take 3584))) ∨
      (3584 < bytes.length ∧ p = .ignore ∧ s.loadRomWith p bytes = s) := by
  have hc : Config.romCapacity = 3584 := rfl
  have hp : Config.progBase = 0x200 := rfl
  unfold State.loadRomWith
  rw [hc, hp]
  by_cases h : bytes.length ≤ 3584
  · exact .inl ⟨h, if_pos h⟩
  · cases p
    · exact .inr (.inl ⟨by omega, rfl, if_neg h⟩)
    · exact .inr (.inr ⟨by omega, rfl, if_neg h⟩)

end Sys2Proof.Machine
end

