-- ==== Sys2Proof/Laws/PerInstr.lean ====
section
/-! SUPPORT. Per-instruction laws: the canonical encoding of every well-formed instruction selects the row of the opcode
map that bears its mnemonic (30_encoding.md rules R86, R88). -/

namespace Sys2Proof.Laws.SelectsItsRow

/-- The word the encoder writes for `i` selects, by mask and match, the row of `i`'s mnemonic. -/
def Statement (i : Instr) : Prop :=
  i.WellFormed → ∃ r ∈ opcodeRows, r.mnemonic = i.mnemonic ∧ r.selects (encode i) = true

theorem cls : Statement (.cls) := fun _ =>
  ⟨⟨"CLS", 0xF0FF, 0x00E0, 0xFFFF⟩, by decide, rfl,
    selects_group_byte _ _ _ _ (by rw [encode, fieldG_formatK, fieldKK_formatK]; rfl)⟩

theorem ret : Statement (.ret) := fun _ =>
  ⟨⟨"RET", 0xF0FF, 0x00EE, 0xFFFF⟩, by decide, rfl,
    selects_group_byte _ _ _ _ (by rw [encode, fieldG_formatK, fieldKK_formatK]; rfl)⟩

theorem jpNnn (nnn : BitVec 12) : Statement (.jpNnn nnn) := fun _ =>
  ⟨⟨"JP_NNN", 0xF000, 0x1000, 0xF000⟩, by decide, rfl,
    selects_group _ _ _ _ (by rw [encode, fieldG_formatA]; rfl)⟩

theorem callNnn (nnn : BitVec 12) : Statement (.callNnn nnn) := fun _ =>
  ⟨⟨"CALL_NNN", 0xF000, 0x2000, 0xF000⟩, by decide, rfl,
    selects_group _ _ _ _ (by rw [encode, fieldG_formatA]; rfl)⟩

theorem seVxKk (x : RegIdx) (kk : Byte) : Statement (.seVxKk x kk) := fun _ =>
  ⟨⟨"SE_VX_KK", 0xF000, 0x3000, 0xF000⟩, by decide, rfl,
    selects_group _ _ _ _ (by rw [encode, fieldG_formatK]; rfl)⟩

theorem sneVxKk (x : RegIdx) (kk : Byte) : Statement (.sneVxKk x kk) := fun _ =>
  ⟨⟨"SNE_VX_KK", 0xF000, 0x4000, 0xF000⟩, by decide, rfl,
    selects_group _ _ _ _ (by rw [encode, fieldG_formatK]; rfl)⟩

theorem seVxVy (x : RegIdx) (y : RegIdx) : Statement (.seVxVy x y) := fun _ =>
  ⟨⟨"SE_VX_VY", 0xF000, 0x5000, 0xF00F⟩, by decide, rfl,
    selects_group _ _ _ _ (by rw [encode, fieldG_formatR]; rfl)⟩

theorem ldVxKk (x : RegIdx) (kk : Byte) : Statement (.ldVxKk x kk) := fun _ =>
  ⟨⟨"LD_VX_KK", 0xF000, 0x6000, 0xF000⟩, by decide, rfl,
    selects_group _ _ _ _ (by rw [encode, fieldG_formatK]; rfl)⟩

theorem addVxKk (x : RegIdx) (kk : Byte) : Statement (.addVxKk x kk) := fun _ =>
  ⟨⟨"ADD_VX_KK", 0xF000, 0x7000, 0xF000⟩, by decide, rfl,
    selects_group _ _ _ _ (by rw [encode, fieldG_formatK]; rfl)⟩

theorem ldVxVy (x : RegIdx) (y : RegIdx) : Statement (.ldVxVy x y) := fun _ =>
  ⟨⟨"LD_VX_VY", 0xF00F, 0x8000, 0xF00F⟩, by decide, rfl,
    selects_group_nibble _ _ _ _ (by rw [encode, fieldG_formatR, fieldN_formatR]; rfl)⟩

theorem orVxVy (x : RegIdx) (y : RegIdx) : Statement (.orVxVy x y) := fun _ =>
  ⟨⟨"OR_VX_VY", 0xF00F, 0x8001, 0xF00F⟩, by decide, rfl,
    selects_group_nibble _ _ _ _ (by rw [encode, fieldG_formatR, fieldN_formatR]; rfl)⟩

theorem andVxVy (x : RegIdx) (y : RegIdx) : Statement (.andVxVy x y) := fun _ =>
  ⟨⟨"AND_VX_VY", 0xF00F, 0x8002, 0xF00F⟩, by decide, rfl,
    selects_group_nibble _ _ _ _ (by rw [encode, fieldG_formatR, fieldN_formatR]; rfl)⟩

theorem xorVxVy (x : RegIdx) (y : RegIdx) : Statement (.xorVxVy x y) := fun _ =>
  ⟨⟨"XOR_VX_VY", 0xF00F, 0x8003, 0xF00F⟩, by decide, rfl,
    selects_group_nibble _ _ _ _ (by rw [encode, fieldG_formatR, fieldN_formatR]; rfl)⟩

theorem addVxVy (x : RegIdx) (y : RegIdx) : Statement (.addVxVy x y) := fun _ =>
  ⟨⟨"ADD_VX_VY", 0xF00F, 0x8004, 0xF00F⟩, by decide, rfl,
    selects_group_nibble _ _ _ _ (by rw [encode, fieldG_formatR, fieldN_formatR]; rfl)⟩

theorem subVxVy (x : RegIdx) (y : RegIdx) : Statement (.subVxVy x y) := fun _ =>
  ⟨⟨"SUB_VX_VY", 0xF00F, 0x8005, 0xF00F⟩, by decide, rfl,
    selects_group_nibble _ _ _ _ (by rw [encode, fieldG_formatR, fieldN_formatR]; rfl)⟩

theorem shrVx (x : RegIdx) : Statement (.shrVx x) := fun _ =>
  ⟨⟨"SHR_VX", 0xF00F, 0x8006, 0xF00F⟩, by decide, rfl,
    selects_group_nibble _ _ _ _ (by rw [encode, fieldG_formatR, fieldN_formatR]; rfl)⟩

theorem subnVxVy (x : RegIdx) (y : RegIdx) : Statement (.subnVxVy x y) := fun _ =>
  ⟨⟨"SUBN_VX_VY", 0xF00F, 0x8007, 0xF00F⟩, by decide, rfl,
    selects_group_nibble _ _ _ _ (by rw [encode, fieldG_formatR, fieldN_formatR]; rfl)⟩

theorem shlVx (x : RegIdx) : Statement (.shlVx x) := fun _ =>
  ⟨⟨"SHL_VX", 0xF00F, 0x800E, 0xF00F⟩, by decide, rfl,
    selects_group_nibble _ _ _ _ (by rw [encode, fieldG_formatR, fieldN_formatR]; rfl)⟩

theorem sneVxVy (x : RegIdx) (y : RegIdx) : Statement (.sneVxVy x y) := fun _ =>
  ⟨⟨"SNE_VX_VY", 0xF000, 0x9000, 0xF00F⟩, by decide, rfl,
    selects_group _ _ _ _ (by rw [encode, fieldG_formatR]; rfl)⟩

theorem ldINnn (nnn : BitVec 12) : Statement (.ldINnn nnn) := fun _ =>
  ⟨⟨"LD_I_NNN", 0xF000, 0xA000, 0xF000⟩, by decide, rfl,
    selects_group _ _ _ _ (by rw [encode, fieldG_formatA]; rfl)⟩

theorem jpV0Nnn (nnn : BitVec 12) : Statement (.jpV0Nnn nnn) := fun _ =>
  ⟨⟨"JP_V0_NNN", 0xF000, 0xB000, 0xF000⟩, by decide, rfl,
    selects_group _ _ _ _ (by rw [encode, fieldG_formatA]; rfl)⟩

theorem rndVxKk (x : RegIdx) (kk : Byte) : Statement (.rndVxKk x kk) := fun _ =>
  ⟨⟨"RND_VX_KK", 0xF000, 0xC000, 0xF000⟩, by decide, rfl,
    selects_group _ _ _ _ (by rw [encode, fieldG_formatK]; rfl)⟩

theorem drwVxVyN (x : RegIdx) (y : RegIdx) (n : Nat) : Statement (.drwVxVyN x y n) := fun _ =>
  ⟨⟨"DRW_VX_VY_N", 0xF000, 0xD000, 0xF000⟩, by decide, rfl,
    selects_group _ _ _ _ (by rw [encode, fieldG_formatR]; rfl)⟩

theorem skpVx (x : RegIdx) : Statement (.skpVx x) := fun _ =>
  ⟨⟨"SKP_VX", 0xF0FF, 0xE09E, 0xF0FF⟩, by decide, rfl,
    selects_group_byte _ _ _ _ (by rw [encode, formatS, fieldG_formatK, fieldKK_formatK]; rfl)⟩

theorem sknpVx (x : RegIdx) : Statement (.sknpVx x) := fun _ =>
  ⟨⟨"SKNP_VX", 0xF0FF, 0xE0A1, 0xF0FF⟩, by decide, rfl,
    selects_group_byte _ _ _ _ (by rw [encode, formatS, fieldG_formatK, fieldKK_formatK]; rfl)⟩

theorem ldVxDt (x : RegIdx) : Statement (.ldVxDt x) := fun _ =>
  ⟨⟨"LD_VX_DT", 0xF0FF, 0xF007, 0xF0FF⟩, by decide, rfl,
    selects_group_byte _ _ _ _ (by rw [encode, formatS, fieldG_formatK, fieldKK_formatK]; rfl)⟩

theorem ldVxK (x : RegIdx) : Statement (.ldVxK x) := fun _ =>
  ⟨⟨"LD_VX_K", 0xF0FF, 0xF00A, 0xF0FF⟩, by decide, rfl,
    selects_group_byte _ _ _ _ (by rw [encode, formatS, fieldG_formatK, fieldKK_formatK]; rfl)⟩

theorem ldDtVx (x : RegIdx) : Statement (.ldDtVx x) := fun _ =>
  ⟨⟨"LD_DT_VX", 0xF0FF, 0xF015, 0xF0FF⟩, by decide, rfl,
    selects_group_byte _ _ _ _ (by rw [encode, formatS, fieldG_formatK, fieldKK_formatK]; rfl)⟩

theorem ldStVx (x : RegIdx) : Statement (.ldStVx x) := fun _ =>
  ⟨⟨"LD_ST_VX", 0xF0FF, 0xF018, 0xF0FF⟩, by decide, rfl,
    selects_group_byte _ _ _ _ (by rw [encode, formatS, fieldG_formatK, fieldKK_formatK]; rfl)⟩

theorem addIVx (x : RegIdx) : Statement (.addIVx x) := fun _ =>
  ⟨⟨"ADD_I_VX", 0xF0FF, 0xF01E, 0xF0FF⟩, by decide, rfl,
    selects_group_byte _ _ _ _ (by rw [encode, formatS, fieldG_formatK, fieldKK_formatK]; rfl)⟩

theorem ldFVx (x : RegIdx) : Statement (.ldFVx x) := fun _ =>
  ⟨⟨"LD_F_VX", 0xF0FF, 0xF029, 0xF0FF⟩, by decide, rfl,
    selects_group_byte _ _ _ _ (by rw [encode, formatS, fieldG_formatK, fieldKK_formatK]; rfl)⟩

theorem ldBVx (x : RegIdx) : Statement (.ldBVx x) := fun _ =>
  ⟨⟨"LD_B_VX", 0xF0FF, 0xF033, 0xF0FF⟩, by decide, rfl,
    selects_group_byte _ _ _ _ (by rw [encode, formatS, fieldG_formatK, fieldKK_formatK]; rfl)⟩

theorem ldMemVx (x : RegIdx) : Statement (.ldMemVx x) := fun _ =>
  ⟨⟨"LD__I__VX", 0xF0FF, 0xF055, 0xF0FF⟩, by decide, rfl,
    selects_group_byte _ _ _ _ (by rw [encode, formatS, fieldG_formatK, fieldKK_formatK]; rfl)⟩

theorem ldVxMem (x : RegIdx) : Statement (.ldVxMem x) := fun _ =>
  ⟨⟨"LD_VX__I", 0xF0FF, 0xF065, 0xF0FF⟩, by decide, rfl,
    selects_group_byte _ _ _ _ (by rw [encode, formatS, fieldG_formatK, fieldKK_formatK]; rfl)⟩

end Sys2Proof.Laws.SelectsItsRow
end

