-- ==== Sys2Proof/Laws/Schedule.lean ====
section
/-! SUPPORT. What one transition can do to the run state, and how an endless schedule goes on from one event to the
next. -/

namespace Sys2Proof.Machine

/-- A transition that performs a cycle is the step. -/
theorem transition_of_runsCycle {e : Event} {s : State} (h : e.runsCycle s = true) : transition e s = step s := by
  cases e with
  | tick => simp_all [Event.runsCycle, transition, tick]
  | command c => cases c <;> simp_all [Event.runsCycle, transition, perform]
  | hardwareReset => simp [Event.runsCycle] at h

/-- A transition that performs no cycle always answers a next state. It keeps `RUN`, but for the two commands and the
reset input that set it (45_cycle_driver_and_host.md rules R226, R227, 70_reset_and_hazards.md rule R302). -/
theorem transition_of_not_runsCycle {e : Event} {s : State} (h : e.runsCycle s = false) :
    ∃ t, transition e s = .next t ∧
      (t.run = s.run ∨ (e = .command .start ∧ t.run = .running) ∨
        ((e = .command .pause ∨ e = .hardwareReset) ∧ t.run = .paused)) := by
  cases e with
  | tick =>
    cases hr : s.run with
    | running => simp [Event.runsCycle, hr] at h
    | paused => exact ⟨s, by simp [transition, tick, hr], .inl hr⟩
  | hardwareReset => exact ⟨_, rfl, .inr (.inr ⟨.inr rfl, rfl⟩)⟩
  | command c =>
    cases c with
    | step => simp [Event.runsCycle] at h
    | start => exact ⟨_, rfl, .inr (.inl ⟨rfl, rfl⟩)⟩
    | pause => exact ⟨_, rfl, .inr (.inr ⟨.inl rfl, rfl⟩)⟩
    | initialise => exact ⟨_, rfl, .inl rfl⟩
    | setKey code => exact ⟨_, rfl, .inl rfl⟩
    | setKeyPressed b => exact ⟨_, rfl, .inl rfl⟩
    | loadRom bytes =>
      refine ⟨_, rfl, .inl ?_⟩
      rcases s.loadRomWith_cases Config.romOverflowPolicy bytes with ⟨_, e⟩ | ⟨_, _, e⟩ | ⟨_, _, e⟩ <;>
        simp [State.loadRom, e]
    | setClockFrequency hz =>
      refine ⟨_, rfl, .inl ?_⟩
      unfold State.setClockFrequency
      split <;> rfl

/-- A schedule in two parts runs the first, then the second. -/
theorem runSchedule_append (es fs : List Event) {s t : State} (h : runSchedule es s = .next t) :
    runSchedule (es ++ fs) s = runSchedule fs t := by
  induction es generalizing s with
  | nil => cases h; rfl
  | cons e es ih =>
    simp only [runSchedule, List.cons_append] at h ⊢
    cases he : transition e s with
    | next u => simp only [he] at h ⊢; exact ih h
    | fault f => simp [he] at h
    | refused r => simp [he] at h

/-- One event alone. -/
@[simp] theorem runSchedule_singleton (e : Event) (s : State) : runSchedule [e] s = transition e s := by
  unfold runSchedule
  cases transition e s <;> rfl

@[simp] theorem Schedule.outcomeAt_zero (es : Schedule) (s : State) : es.outcomeAt s 0 = .next s := rfl

/-- The next event goes on from where the schedule has come to. -/
theorem Schedule.outcomeAt_succ (es : Schedule) {s t : State} {n : Nat} (h : es.outcomeAt s n = .next t) :
    es.outcomeAt s (n + 1) = transition (es n) t := by
  have hs : es.upTo (n + 1) = es.upTo n ++ [es n] := by simp [Schedule.upTo, List.range_succ]
  rw [Schedule.outcomeAt, hs, runSchedule_append _ _ h, runSchedule_singleton]

end Sys2Proof.Machine
end

