-- ==== Sys2Proof/Tests/Slice0.lean ====
section
/-! SUPPORT. Tests. The expected values are those of spec/95_test_vectors.md, or worked by hand from the rule named; the
words of the decode tests are written out bit by bit from 30_encoding.md rules R82 and R86. Then one witness for each
statement with hypotheses. -/

namespace Sys2Proof.Machine

/-! ## Helpers -/

/-- The answer is a next state that satisfies `p`. -/
def lands (r : Result) (p : State → Bool) : Bool :=
  match r with
  | .next t => p t
  | .fault _ => false
  | .refused _ => false

theorem next_of_lands {r : Result} {P : State → Prop} [DecidablePred P]
    (h : lands r (fun t => decide (P t)) = true) : ∃ t, r = .next t ∧ P t := by
  cases r with
  | next t => exact ⟨t, rfl, by simpa [lands] using h⟩
  | fault f => simp [lands] at h
  | refused q => simp [lands] at h

/-- One cycle that fetches `w` in the state `s`. -/
def run (s : State) (w : Nat) (p : State → Bool) : Bool := lands (step (s.withFetchWord 16 w)) p

/-- The state after reset with two registers set. -/
def two (x : RegIdx) (a : Byte) (y : RegIdx) (b : Byte) : State := (State.reset.setReg x a).setReg y b

/-- The state after reset with `V[k] = k + 1`, `I` at `a`. -/
def counted (a : Word) : State :=
  (State.reset.setV #v[1, 2, 3, 4, 5, 6, 7, 8, 9, 10, 11, 12, 13, 14, 15, 16]).setI a

/-- The state after reset with sprite bytes at `a`, `I` at `a`, `V[1]` and `V[2]` as given. -/
def canvasAt (a : Word) (sprite : List Byte) (x y : Byte) : State :=
  ((two 1 x 2 y).setI a).setMem (State.reset.mem.writeBytes a.toNat sprite)

/-! ## Ill-formed terms -/

/-- A row count of 16 does not fit its four bits (30_encoding.md rule R83). -/
theorem test_wellFormed_refuses_drw_16 : ¬ (Instr.drwVxVyN 0 0 16).WellFormed := by decide

theorem test_wellFormed_accepts_drw_15 : (Instr.drwVxVyN 0 0 15).WellFormed := by decide

/-! ## Decoding, from the spec's encodings -/

theorem test_decode_flow :
    decodeTableWord 16 0b0000000011101110 = some .ret ∧
    decodeTableWord 16 0b0001001000110100 = some (.jpNnn 0x234) ∧
    decodeTableWord 16 0b0010001100000000 = some (.callNnn 0x300) ∧
    decodeTableWord 16 0b0011010000010010 = some (.seVxKk 4 0x12) ∧
    decodeTableWord 16 0b0100001100010001 = some (.sneVxKk 3 0x11) ∧
    decodeTableWord 16 0b0101000100100000 = some (.seVxVy 1 2) ∧
    decodeTableWord 16 0b1001000100100000 = some (.sneVxVy 1 2) ∧
    decodeTableWord 16 0b1011111111111111 = some (.jpV0Nnn 0xFFF) := by decide

theorem test_decode_alu :
    decodeTableWord 16 0b0110000000001010 = some (.ldVxKk 0 0x0A) ∧
    decodeTableWord 16 0b0111001000100000 = some (.addVxKk 2 0x20) ∧
    decodeTableWord 16 0b1000000100100000 = some (.ldVxVy 1 2) ∧
    decodeTableWord 16 0b1000000100100001 = some (.orVxVy 1 2) ∧
    decodeTableWord 16 0b1000000100100010 = some (.andVxVy 1 2) ∧
    decodeTableWord 16 0b1000000100100011 = some (.xorVxVy 1 2) ∧
    decodeTableWord 16 0b1000000100100100 = some (.addVxVy 1 2) ∧
    decodeTableWord 16 0b1000000100100101 = some (.subVxVy 1 2) ∧
    decodeTableWord 16 0b1000101010110110 = some (.shrVx 0xA) ∧
    decodeTableWord 16 0b1000000100100111 = some (.subnVxVy 1 2) ∧
    decodeTableWord 16 0b1000101010111110 = some (.shlVx 0xA) ∧
    decodeTableWord 16 0b1100000100001111 = some (.rndVxKk 1 0x0F) := by decide

theorem test_decode_memory_display :
    decodeTableWord 16 0b1010001001010000 = some (.ldINnn 0x250) ∧
    decodeTableWord 16 0b1111000100011110 = some (.addIVx 1) ∧
    decodeTableWord 16 0b1111000100101001 = some (.ldFVx 1) ∧
    decodeTableWord 16 0b1111000100110011 = some (.ldBVx 1) ∧
    decodeTableWord 16 0b1111001001010101 = some (.ldMemVx 2) ∧
    decodeTableWord 16 0b1111001001100101 = some (.ldVxMem 2) ∧
    decodeTableWord 16 0b0000000011100000 = some .cls ∧
    decodeTableWord 16 0b1101000100100011 = some (.drwVxVyN 1 2 3) := by decide

theorem test_decode_input_timers :
    decodeTableWord 16 0b1110000110011110 = some (.skpVx 1) ∧
    decodeTableWord 16 0b1110000110100001 = some (.sknpVx 1) ∧
    decodeTableWord 16 0b1111000100000111 = some (.ldVxDt 1) ∧
    decodeTableWord 16 0b1111000100001010 = some (.ldVxK 1) ∧
    decodeTableWord 16 0b1111000100010101 = some (.ldDtVx 1) ∧
    decodeTableWord 16 0b1111000100011000 = some (.ldStVx 1) := by decide

theorem test_decode_aliases :
    decodeWord 0x01E0 = some .cls ∧ decodeWord 0x0AEE = some .ret ∧ decodeWord 0x512F = some (.seVxVy 1 2) ∧
    decodeWord 0x912F = some (.sneVxVy 1 2) ∧ decodeWith .fault 0x01E0 = none ∧
    decodeWith .fault 0x0AEE = none ∧ decodeWith .fault 0x5121 = none ∧ decodeWith .fault 0x912F = none ∧
    decodeWith .fault 0x8AB6 = some (.shrVx 0xA) := by decide

theorem test_decode_unknown :
    [0x0000, 0x00E1, 0x0123, 0x8128, 0x812D, 0x812F, 0xE100, 0xE19F, 0xE1A0, 0xF100, 0xF130, 0xF185, 0xF1FF].all
      (fun w => decodeWord w == none) = true := by decide

/-! ## Flow control -/

theorem test_jp : run (State.reset.setDt 5) 0x1201 (fun t => t.pc == 0x201 && t.dt == 4) = true := by decide
theorem test_call : run (State.reset.setStack [0x206]) 0x2300
    (fun t => t.pc == 0x300 && t.stack == [0x202, 0x206]) = true := by decide
theorem test_ret : run (State.reset.setStack [0x30A, 0x206]) 0x00EE
    (fun t => t.pc == 0x30A && t.stack == [0x206]) = true := by decide
theorem test_ret_empty : run State.reset 0x00EE (fun t => t.pc == 0x200 && t.haltCause.code == 3) = true := by decide
theorem test_se_vx_kk : run (State.reset.setReg 15 0xFF) 0x3FFF (fun t => t.pc == 0x204) = true := by decide
theorem test_sne_vx_kk : run (State.reset.setReg 3 0x10) 0x4311 (fun t => t.pc == 0x204) = true := by decide
theorem test_se_vx_vy : run (two 1 7 2 8) 0x5120 (fun t => t.pc == 0x202) = true := by decide
theorem test_sne_vx_vy : run (two 1 7 2 8) 0x9120 (fun t => t.pc == 0x204) = true := by decide
theorem test_sne_vx_vx : run (two 3 7 2 8) 0x9330 (fun t => t.pc == 0x202) = true := by decide
theorem test_jp_v0 : run (State.reset.setReg 0 0xFF) 0xBFFF (fun t => t.pc == 0x10FE) = true := by decide
theorem test_skip_at_end : run (State.reset.setPc 0xFFC) 0x3000 (fun t => t.pc == 0x1000) = true := by decide

/-! ## Registers -/

theorem test_ld_vx_kk : run State.reset 0x600A (fun t => t.reg 0 == 10 && t.pc == 0x202) = true := by decide
theorem test_add_vx_kk : run (two 0 0xFF 15 7) 0x7001 (fun t => t.reg 0 == 0 && t.reg 15 == 7) = true := by decide
theorem test_ld_vx_vy : run (two 15 1 14 9) 0x8EF0 (fun t => t.reg 14 == 1 && t.reg 15 == 1) = true := by decide
theorem test_or : run ((two 1 0xF0 2 0x0F).setReg 15 1) 0x8121
    (fun t => t.reg 1 == 0xFF && t.reg 15 == 1) = true := by decide
theorem test_and : run ((two 1 0xFC 2 0x3F).setReg 15 1) 0x8122
    (fun t => t.reg 1 == 0x3C && t.reg 15 == 1) = true := by decide
theorem test_xor : run ((two 1 0xFF 2 0x0F).setReg 15 1) 0x8123
    (fun t => t.reg 1 == 0xF0 && t.reg 15 == 1) = true := by decide
theorem test_add_carry : run (two 1 0xC8 2 0x64) 0x8124 (fun t => t.reg 1 == 0x2C && t.reg 15 == 1) = true := by decide
theorem test_add_vf : run (two 1 0x10 15 0xF5) 0x81F4 (fun t => t.reg 1 == 0x11 && t.reg 15 == 1) = true := by decide
theorem test_sub_borrow : run (two 1 5 2 6) 0x8125 (fun t => t.reg 1 == 0xFF && t.reg 15 == 0) = true := by decide
theorem test_sub_vf : run (two 1 4 15 9) 0x8F15 (fun t => t.reg 1 == 4 && t.reg 15 == 0xFD) = true := by decide
theorem test_shr : run (two 3 0xFE 4 1) 0x8346
    (fun t => t.reg 3 == 0x7F && t.reg 15 == 0 && t.reg 4 == 1) = true := by decide
theorem test_shr_vf : run (State.reset.setReg 15 0xFF) 0x8F06 (fun t => t.reg 15 == 0) = true := by decide
theorem test_subn : run (two 1 10 2 3) 0x8127 (fun t => t.reg 1 == 0xF9 && t.reg 15 == 0) = true := by decide
theorem test_subn_vf : run (two 1 3 15 10) 0x81F7 (fun t => t.reg 1 == 0xFE && t.reg 15 == 1) = true := by decide
theorem test_shl : run (State.reset.setReg 3 0x81) 0x830E (fun t => t.reg 3 == 2 && t.reg 15 == 1) = true := by decide
theorem test_shl_vf : run (State.reset.setReg 15 0xFF) 0x8F0E (fun t => t.reg 15 == 2) = true := by decide

/-- RND with KK = 0 gives 0 whatever the byte drawn (41_alu.md rule R143). -/
theorem test_rnd_masked : ∃ t, exec (.rndVxKk 1 0) (State.reset.setReg 1 9) = .next t ∧ t.reg 1 = 0 ∧ t.draws = 1 :=
  ⟨_, rfl, by simp, rfl⟩

/-! ## Index and memory -/

theorem test_ld_i : run (State.reset.setI 0x123) 0xAFFF (fun t => t.i == 0xFFF) = true := by decide
theorem test_add_i : run (two 1 5 15 0 |>.setI 0xFFE) 0xF11E (fun t => t.i == 0x1003 && t.reg 15 == 0) = true := by decide
theorem test_add_i_wraps : run (two 1 2 15 0 |>.setI 0xFFFF) 0xF11E (fun t => t.i == 1) = true := by decide
theorem test_ld_f : run (State.reset.setReg 0 5) 0xF029 (fun t => t.i == 0x69) = true := by decide
theorem test_ld_f_whole_byte : run (State.reset.setReg 0 255) 0xF029 (fun t => t.i == 0x54B) = true := by decide
theorem test_bcd : run ((State.reset.setReg 0 123).setI 0xFFD) 0xF033
    (fun t => t.mem.read 0xFFD == 1 && t.mem.read 0xFFE == 2 && t.mem.read 0xFFF == 3) = true := by decide
theorem test_bcd_outside : run ((State.reset.setReg 0 123).setI 0xFFE) 0xF033
    (fun t => t.lastFault == some (.memOutOfBounds 0x1000 0x200) && t.mem.read 0xFFE == 0) = true := by decide
theorem test_dump : run (counted 0x400) 0xF255
    (fun t => t.mem.read 0x400 == 1 && t.mem.read 0x402 == 3 && t.mem.read 0x403 == 0 && t.i == 0x400) = true := by
  decide
theorem test_dump_outside : run (counted 0xFF1) 0xFF55
    (fun t => t.haltCause.code == 4 && t.mem.read 0xFF1 == 0) = true := by decide
theorem test_load_font : run (State.reset.setI 0x50) 0xFF65 (fun t =>
    t.v == #v[0xF0, 0x90, 0x90, 0x90, 0xF0, 0x20, 0x60, 0x20, 0x20, 0x70, 0xF0, 0x10, 0xF0, 0x80, 0xF0, 0xF0]) =
    true := by decide
theorem test_load_partial : run ((canvasAt 0x300 [2, 5, 4, 9] 0 0).setReg 3 0x77) 0xF265
    (fun t => t.reg 0 == 2 && t.reg 2 == 4 && t.reg 3 == 0x77 && t.i == 0x300) = true := by decide

/-! ## Display -/

theorem test_cls : run ((State.reset.setFb (Vector.replicate 32 5)).setReg 15 1) 0x00E0
    (fun t => t.fb == Framebuffer.blank && t.reg 15 == 1) = true := by decide

set_option maxRecDepth 4000 in
/-- Right edge clipped, no wrap (95_test_vectors.md, Display, row 60, 0). -/
theorem test_drw_clips : run (canvasAt 0x300 [0xFF, 0x81, 0xFF] 60 0) 0xD123 (fun t =>
    t.fb.pixel 60 0 && t.fb.pixel 63 0 && t.fb.pixel 60 1 && !t.fb.pixel 61 1 && !t.fb.pixel 0 0 &&
    t.fb.pixel 63 2 && t.reg 15 == 0) = true := by decide

set_option maxRecDepth 4000 in
/-- S4, second instance: (1,0) goes off, (2,0) comes on, a collision. -/
theorem test_drw_collides : run ((canvasAt 0x310 [0xC0] 1 0).setFb (Framebuffer.blank.toggle 1 0)) 0xD121
    (fun t => t.fb == Framebuffer.blank.toggle 2 0 && t.reg 15 == 1) = true := by decide

/-! ## Input and timers -/

theorem test_skp : run (two 2 0x41 0 0 |>.setKey 0x41) 0xE29E (fun t => t.pc == 0x204) = true := by decide
theorem test_skp_differs : run (two 2 6 0 0 |>.setKey 7) 0xE29E (fun t => t.pc == 0x202) = true := by decide
theorem test_sknp : run (two 2 6 0 0 |>.setKey 7) 0xE2A1 (fun t => t.pc == 0x204) = true := by decide
theorem test_ld_k : run ((State.reset.setKey 7).setPressed true) 0xF20A
    (fun t => t.reg 2 == 7 && t.pc == 0x202 && t.pressed == false) = true := by decide
theorem test_ld_k_waits : run ((State.reset.setKey 7).setDt 4) 0xF20A
    (fun t => t.reg 2 == 0 && t.pc == 0x200 && t.dt == 3) = true := by decide
theorem test_ld_vx_dt : run (State.reset.setDt 2) 0xF107 (fun t => t.reg 1 == 2 && t.dt == 1) = true := by decide
theorem test_ld_dt_vx : run (State.reset.setReg 0 3) 0xF015 (fun t => t.dt == 2) = true := by decide
theorem test_ld_dt_vx_zero : run (State.reset.setDt 9) 0xF015 (fun t => t.dt == 0) = true := by decide
theorem test_ld_st_vx : run (State.reset.setReg 2 7) 0xF218 (fun t => t.st == 7) = true := by decide

/-! ## The cycle, faults and the host -/

theorem test_notifications : run State.reset 0x6005 (fun t => t.run == .paused && t.notes ==
    [.frame t.fb, .registers t.v t.i 0x202 t.mem, .endOfCycle]) = true := by decide
theorem test_unknown : run ((State.reset.setDt 5).setPressed true) 0x8008 (fun t => t.haltCause.code == 2 &&
    t.dt == 5 && t.pressed && t.pc == 0x200 && t.notes == [.log (.unknownOpcode 0x8008 0x200)]) = true := by decide
theorem test_pc_out_of_bounds : lands (step (State.reset.setPc 0x10FE))
    (fun t => t.haltCause.code == 1 && t.pc == 0x10FE && t.run == .paused) = true := by decide
theorem test_stack_overflow : lands (callWith (some 16) 0x300 (State.reset.setStack (List.replicate 16 0x202)))
    (fun t => t.haltCause.code == 5 && t.pc == 0x200 && t.stack == List.replicate 16 0x202) = true := by decide
theorem test_st_decrement : ((State.reset.setSt 7).timerPhase true).st = 6 := by decide

/-- Fetch is big-endian, and the word of the last two addresses runs (20_memory.md rules R52 and R55). -/
theorem test_fetch_last_word :
    lands (step ((State.reset.setPc 0xFFE).setMem (State.reset.mem.writeBytes 0xFFE [0x12, 0x00])))
      (fun t => t.pc == 0x200) = true := by decide

theorem test_set_key : lands (perform (.setKey 0x141) State.reset) (fun t => t.key == 0x41 && !t.pressed) = true := by
  decide
theorem test_load_rom_twice : lands (perform (.loadRom [0xAA])
    (State.reset.setMem (State.reset.mem.writeBytes 0x200 [1, 2, 3])))
    (fun t => t.mem == [(0x200, 0xAA), (0x201, 2), (0x202, 3)]) = true := by decide
theorem test_clock : lands (perform (.setClockFrequency 700) State.reset) (fun t => t.clockHz == 700) = true := by
  decide
theorem test_clock_ignored : lands (perform (.setClockFrequency (-5)) State.reset)
    (fun t => t == State.reset) = true := by decide
theorem test_start_after_fault : lands (runSchedule [.command .step, .command .start] State.reset)
    (fun t => t.run == .running && t.haltCause == .none) = true := by decide
theorem test_repair_then_step : lands
    (runSchedule [.command .step, .command (.loadRom [0x12, 0x00]), .command .step] State.reset)
    (fun t => t.pc == 0x200 && t.haltCause.code == 2 && t.run == .paused && t.lastFault == none) = true := by decide

/-! ## Witnesses: states and operands that meet the hypotheses of the statements -/

theorem witness_DecodeEncodeRoundTrip : (Instr.drwVxVyN 15 15 15).WellFormed ∧ Instr.ret.WellFormed := by decide

theorem witness_EncodeOfDecodeIsCanonical : decodeWord 0x0FE0 = some .cls ∧ decodeWord 0x512F = some (.seVxVy 1 2) ∧
    decodeWord 0x8AB6 = some (.shrVx 0xA) ∧ decodeWord 0xDFFF = some (.drwVxVyN 15 15 15) := by decide

theorem witness_DecodeMatchesOpcodeMap : (∃ r ∈ opcodeRows, r.selects 0x8AB6 = true) ∧ decodeWord 0xF165 ≠ none ∧
    decodeWord 0x8128 = none := by decide

theorem witness_StepRunsDecodedInstruction : ∃ s : State, s.initialised = true ∧ s.pc.toNat = 0xFFE ∧
    decodeWord s.wordAtPc = some (.jpNnn 0x200) :=
  ⟨(State.reset.setPc 0xFFE).withFetchWord 16 0x1200, by decide⟩

theorem witness_StoredInstructionIsFetchedNext : (State.reset.setPc 0xFFE).initialised = true ∧
    (State.reset.setPc 0xFFE).pc.toNat < 0xFFF ∧ decodeTableWord 16 0x1200 = some (.jpNnn 0x200) := by decide

theorem witness_EveryCycleCompletesOrFaults : State.reset.initialised = true := rfl

theorem witness_UninitialisedCycleIsRefused : State.created.initialised = false := rfl

theorem witness_LatchPhaseOfEveryCycle :
    (∃ t, step ((State.reset.setPressed true).withFetchWord 16 0x6000) = .next t ∧ t.lastFault = none) ∧
    (∃ t, step ((State.reset.setPressed true).withFetchWord 16 0x8008) = .next t ∧ t.lastFault ≠ none) :=
  ⟨next_of_lands (by decide), next_of_lands (by decide)⟩

theorem witness_TimersCountCompletedCycles :
    (∃ t, exec .cls (State.reset.setDt 0) = .next t ∧ t.lastFault = none) ∧
    (∃ t, exec (.ldDtVx 15) (State.reset.setReg 15 1) = .next t ∧ t.lastFault = none) ∧
    (∃ t, exec (.ldStVx 15) (State.reset.setReg 15 1) = .next t ∧ t.lastFault = none) ∧
    Instr.cls.writesDelay = false ∧ Instr.cls.writesSound = false :=
  ⟨next_of_lands (by decide), next_of_lands (by decide), next_of_lands (by decide), rfl, rfl⟩

theorem witness_NextPcOfEveryInstruction :
    ∃ t, exec .ret (State.reset.setStack [0x300]) = .next t ∧ t.lastFault = none := next_of_lands (by decide)

theorem witness_OnlyListedInstructionsReachAStore : (∃ t, exec (.jpNnn 0xFFF) State.reset = .next t) ∧
    (Instr.jpNnn 0xFFF).storesMemory = false ∧ (Instr.jpNnn 0xFFF).writesScreen = false ∧
    (Instr.jpNnn 0xFFF).usesStack = false ∧ (Instr.jpNnn 0xFFF).writesIndex = false ∧
    (Instr.jpNnn 0xFFF).drawsRandom = false := ⟨⟨_, rfl⟩, rfl, rfl, rfl, rfl, rfl⟩

theorem witness_RegisterFrameOfEveryInstruction :
    (∃ t, exec (.addVxVy 14 15) (two 14 0xFF 15 1) = .next t ∧ t.lastFault = none) ∧
    (Instr.addVxVy 14 15).writesFlag = true ∧ vf ∉ (Instr.addVxVy 14 15).destinations ∧
    (0 : RegIdx) ∉ (Instr.addVxVy 14 15).destinations ∧ (0 : RegIdx) ≠ vf ∧
    (Instr.ldVxMem 14).writesFlag = false ∧ vf ∉ (Instr.ldVxMem 14).destinations :=
  ⟨next_of_lands (by decide), by decide⟩

theorem witness_StepIgnoresRunState : (∃ t, step (State.reset.withFetchWord 16 0x6000) = .next t ∧ t.run = .paused) ∧
    (∃ t, step State.reset = .next t ∧ t.haltCause = .unknownOpcode) :=
  ⟨next_of_lands (by decide), next_of_lands (by decide)⟩

theorem witness_SoundTimerIsUnobserved : ∃ t, step ((State.reset.setReg 1 7).withFetchWord 16 0xF118) = .next t ∧
    t.st = 7 := next_of_lands (by decide)

theorem witness_ReturnResult : (State.reset.setStack [0x1000]).stack = 0x1000 :: [] := rfl

theorem witness_ReturnOnEmptyStackHalts : State.reset.stack = [] := rfl

theorem witness_CallThenReturnComesBack : ∃ s : State, s.initialised = true ∧ s.pc.toNat < 0xFFF ∧
    decodeWord s.wordAtPc = some (.callNnn 0xFFE) ∧
    decodeWord (wordOfBytes (s.mem.read 0xFFE) (s.mem.read 0xFFF)) = some .ret ∧
    ∃ t, step s = .next t ∧ t.pc = 0xFFE :=
  ⟨(State.reset.setMem (State.reset.mem.writeBytes 0xFFE [0x00, 0xEE])).withFetchWord 16 0x2FFE,
    by decide, by decide, by decide, by decide, next_of_lands (by decide)⟩

theorem witness_BoundedStackOverflows : State.reset.stack.length = 0 ∧ State.reset.stack.length ≠ 16 := by decide

theorem witness_AddSubtractResults : (14 : RegIdx) ≠ vf ∧ (0 : RegIdx) ≠ vf := by decide

theorem witness_AddSubtractOnVF : (14 : RegIdx) ≠ vf ∧
    (1 : Byte) = (if ((two 14 0xFF 15 1).reg 14).toNat + ((two 14 0xFF 15 1).reg vf).toNat > 255 then 1 else 0) ∧
    (1 : Byte) = (if ((two 14 0xFF 15 1).reg 14).toNat > ((two 14 0xFF 15 1).reg vf).toNat then 1 else 0) ∧
    (0 : Byte) = (if ((two 14 0xFF 15 1).reg vf).toNat > ((two 14 0xFF 15 1).reg 14).toNat then 1 else 0) := by decide

theorem witness_ShiftResults : (14 : RegIdx) ≠ vf ∧ (15 : RegIdx) = vf := by decide

theorem witness_ShiftPairLosesOneBit : (14 : RegIdx) ≠ vf ∧
    (∃ t, exec (.shlVx 14) (State.reset.setReg 14 0x81) = .next t ∧ ∃ u, exec (.shrVx 14) t = .next u) ∧
    (∃ t, exec (.shrVx 14) (State.reset.setReg 14 0x81) = .next t ∧ ∃ u, exec (.shlVx 14) t = .next u) :=
  ⟨by decide, ⟨_, rfl, _, rfl⟩, ⟨_, rfl, _, rfl⟩⟩

theorem witness_BcdStoreResult : (State.reset.setI 0xFFD).base + 2 = 0xFFF := by decide

theorem witness_RegisterDumpResult : (State.reset.setI 0xFF0).base + (15 : RegIdx).val = 0xFFF := by decide

theorem witness_RegisterLoadResult : (State.reset.setI 0xFFF).base + (0 : RegIdx).val = 0xFFF := by decide

theorem witness_DumpThenLoadRoundTrips : ∃ t, exec (.ldMemVx 15) (counted 0xFF0) = .next t ∧ t.lastFault = none ∧
    ∃ w, exec (.ldVxMem 15) t = .next w :=
  ⟨_, rfl, by decide, _, rfl⟩

theorem witness_AccessAboveMemoryHalts :
    (1 ≤ (Instr.drwVxVyN 0 0 1).accessLength ∧ 0xFFF < 0x1000 + ((Instr.drwVxVyN 0 0 1).accessLength - 1)) ∧
    (1 ≤ (Instr.ldBVx 0).accessLength ∧ 0xFFF < 0xFFE + ((Instr.ldBVx 0).accessLength - 1)) ∧
    (1 ≤ (Instr.ldMemVx 15).accessLength ∧ 0xFFF < 0xFF1 + ((Instr.ldMemVx 15).accessLength - 1)) ∧
    (1 ≤ (Instr.ldVxMem 0).accessLength ∧ 0xFFF < 0x1000 + ((Instr.ldVxMem 0).accessLength - 1)) ∧
    (State.reset.setI 0x1000).i.toNat = 0x1000 := by decide

theorem witness_DrawXorsSpriteBits : (State.reset.setI 0xFF1).base + 15 ≤ 0x1000 ∧
    ((State.reset.setI 0xFFFF).base + 0 ≤ 0x1000 ∨ 0 = 0) := by decide

theorem witness_DrawOffGridDrawsNothing : (canvasAt 0xFFF [] 64 0).base + 1 ≤ 0x1000 ∧
    64 ≤ ((canvasAt 0xFFF [] 64 0).reg 1).toNat ∧ 32 ≤ ((canvasAt 0xFFF [] 0 32).reg 2).toNat := by decide

theorem witness_DrawTwiceRestoresScreen : ∃ s t w : State, s.base + 1 ≤ 0x1000 ∧
    exec (.drwVxVyN 1 2 1) s = .next t ∧ exec (.drwVxVyN 1 2 1) (((s.setFb t.fb).setReg vf 1)) = .next w ∧
    ((s.setFb t.fb).setReg vf 1).mem = s.mem ∧ ((s.setFb t.fb).setReg vf 1).i = s.i ∧
    ((s.setFb t.fb).setReg vf 1).reg 1 = s.reg 1 ∧ ((s.setFb t.fb).setReg vf 1).reg 2 = s.reg 2 :=
  ⟨canvasAt 0xFFF [0xC0] 1 0, _, _, by decide, rfl, rfl, rfl, rfl, rfl, rfl⟩

theorem witness_KeyWaitResults : (State.reset.setPressed true).pressed = true ∧ State.reset.pressed = false := by
  decide

theorem witness_PcOutOfBoundsHalts : (State.reset.setPc 0xFFF).initialised = true ∧
    0xFFF ≤ (State.reset.setPc 0xFFF).pc.toNat := by decide

theorem witness_UnknownOpcodeHalts : State.reset.initialised = true ∧ State.reset.pc.toNat < 0xFFF ∧
    decodeWord State.reset.wordAtPc = none := by decide

theorem witness_FaultsHaveOnlyTheirCauses :
    (∃ t, step (State.reset.setPc 0xFFF) = .next t ∧ t.lastFault = some (.pcOutOfBounds 0xFFF)) ∧
    (∃ t, step State.reset = .next t ∧ t.lastFault = some (.unknownOpcode 0 0x200)) ∧
    (∃ t, step (State.reset.withFetchWord 16 0x00EE) = .next t ∧ t.lastFault = some (.stackUnderflow 0x200)) ∧
    (∃ t, step ((State.reset.setI 0xFFFF).withFetchWord 16 0xD121) = .next t ∧
      t.lastFault = some (.memOutOfBounds 0xFFFF 0x200)) :=
  ⟨next_of_lands (by decide), next_of_lands (by decide), next_of_lands (by decide), next_of_lands (by decide)⟩

theorem witness_FaultChangesOnlyRunState :
    ∃ t, step ((State.reset.setI 0xFF1).withFetchWord 16 0xFF65) = .next t ∧
      t.lastFault = some (.memOutOfBounds 0x1000 0x200) := next_of_lands (by decide)

theorem witness_LoadRomWritesOnlyProgramBytes : (List.replicate 3584 (7 : Byte)).length ≤ 3584 ∧
    3584 < (List.replicate 3585 (7 : Byte)).length := by simp only [List.length_replicate]; omega

theorem witness_RunStateMachine : State.reset.run = .paused ∧ State.reset.start.run = .running ∧
    (∃ t, step (State.reset.start.withFetchWord 16 0x6000) = .next t ∧ t.lastFault = none) ∧
    (∃ t, step State.reset.start = .next t ∧ t.lastFault = some (.unknownOpcode 0 0x200)) :=
  ⟨rfl, rfl, next_of_lands (by decide), next_of_lands (by decide)⟩

theorem witness_SetClockFrequencyResult : (0 : Rat) < 1 / 2 ∧ (0 : Rat) ≤ 0 := by norm_num

/-- A running machine with a return address at its bound and a font byte overwritten. -/
def started : State := ((State.reset.setStack [0x1000]).setMem (State.reset.mem.writeBytes 0x9F [0, 0, 0])).start

theorem started_inv : started.Inv := by
  refine ⟨Memory.wf_writeBytes State.reset_mem_wf (by decide), by decide, ?_, fun _ => rfl, ?_⟩
  · show ∀ a ∈ [(0x1000 : Word)], a.toNat ≤ 0x1000
    simp
  · show (0 : Rat) < 1
    norm_num

theorem witness_StepKeepsInvariant : started.Inv ∧ ∃ t, step started = .next t ∧ t.haltCause = .unknownOpcode := ⟨started_inv, next_of_lands (by decide)⟩

theorem witness_ScheduleKeepsInvariant : started.Inv ∧
    ∃ t, runSchedule [.command (.loadRom [0x00, 0xEE]), .tick, .tick, .command .pause] started =
      .next t ∧ t.pc = 0x1000 ∧ t.run = .paused := ⟨started_inv, next_of_lands (by decide)⟩

theorem witness_MemoryIsItsReads : Memory.wf [(0x200, 0x12), (0xFFF, 1)] = true ∧ Memory.wf [(0x1000, 1)] = false ∧
    Memory.wf [(0x50, 0xF0)] = false := by decide

/-- A schedule that starts the paused machine, sets a key, then runs: it is fair from the reset state, has no pause and
no reset input, and leaves the machine running after one event. -/
def startThenRun : Schedule := fun n => if n = 0 then .command .start else if n = 1 then .command (.setKey 7) else .tick

theorem startThenRun_after_one : startThenRun.outcomeAt State.reset 1 = .next State.reset.start := rfl

theorem witness_FairScheduleRunsAnotherCycle : startThenRun.Fair State.reset ∧
    (∀ k, startThenRun k ≠ .command .pause ∧ startThenRun k ≠ .hardwareReset) ∧
    startThenRun.outcomeAt State.reset 1 = .next State.reset.start ∧ State.reset.start.run = .running := by
  refine ⟨fun n t ht hr => ?_, fun k => ?_, rfl, rfl⟩
  · by_cases hn : n < 2
    · exact ⟨2, by omega, .inl ⟨State.reset.start.latchKey 7, rfl, rfl⟩⟩
    · refine ⟨n, Nat.le_refl n, .inl ⟨t, ht, ?_⟩⟩
      have h : startThenRun n = .tick := by
        rw [startThenRun, if_neg (show ¬ n = 0 by omega), if_neg (show ¬ n = 1 by omega)]
      simp [h, Event.runsCycle, hr]
  · unfold startThenRun
    split
    · simp
    · split <;> simp

/-- A schedule of key commands alone is not fair to a running machine (rule R316). -/
theorem test_silent_schedule_is_not_fair : ¬ Schedule.Fair (fun _ => .command (.setKey 7)) State.reset.start := by
  have hout : ∀ n, ∃ t, Schedule.outcomeAt (fun _ => .command (.setKey 7)) State.reset.start n = .next t ∧
      t.run = .running := by
    intro n
    induction n with
    | zero => exact ⟨_, rfl, rfl⟩
    | succ n ih =>
      obtain ⟨t, ht, hr⟩ := ih
      exact ⟨_, Schedule.outcomeAt_succ _ ht, hr⟩
  intro h
  obtain ⟨m, _, ⟨t, _, ht⟩ | ⟨t, ht, hp⟩⟩ := h 0 _ rfl rfl
  · simp [Event.runsCycle] at ht
  · obtain ⟨u, hu, hr⟩ := hout m
    rw [hu] at ht
    cases ht
    simp [hr] at hp

end Sys2Proof.Machine
end

section
/-! PROOFS. Flow control (40_flow_control.md): the frame of a completed cycle that wrote nothing itself, the result of a
skip for any comparison, and the skip instructions that follow from it. -/

namespace Sys2Proof.Machine

/-- The phases that end a cycle write no register, and count `DT` alone: the default of D17 leaves `ST` (rule R220). -/
theorem State.endCycle_writesOnlyRegs (s : State) (a : Word) : WritesOnlyRegs [] s (s.endCycle a) := by
  have hregs : SameRegsBut [] s (s.endCycle a) := fun r _ => s.endCycle_reg a r
  have hmem : SameMemory s (s.endCycle a) := fun _ => by rw [s.endCycle_mem a]
  have hscreen : SameScreen s (s.endCycle a) := fun _ _ => by rw [s.endCycle_fb a]
  have hrest : SameIndexStackSound s (s.endCycle a) :=
    ⟨s.endCycle_i a, s.endCycle_stack a, s.endCycle_st a, s.endCycle_draws a⟩
  have hdt : CountsDown s.dt (s.endCycle a).dt := tickDown_toNat s.dt
  exact ⟨hregs, hmem, hscreen, hrest, hdt, s.endCycle_cycleEnd a⟩

/-- A skip whose comparison decides `P` takes `pc + 4` or `pc + 2` by `P` and writes nothing else (rule R117). -/
theorem completeSkip_result {holds : Bool} {P : Prop} [Decidable P] (h : holds = true ↔ P) (s : State) :
    ∃ t, completeSkip holds s = .next t ∧ t.pc = (if P then s.pc + 4 else s.pc + 2) ∧ WritesOnlyRegs [] s t := by
  refine ⟨_, (completeSkip_next holds s _).mpr rfl, ?_, s.endCycle_writesOnlyRegs _⟩
  rw [State.endCycle_pc]
  exact if_congr h rfl rfl

/-- Settles O19: each of the four instructions is a skip by the Boolean test of its comparison (rules R113 to R116). -/
theorem skipResults : Obligations.SkipResults := by
  intro x y kk s
  exact ⟨completeSkip_result beq_iff_eq s, completeSkip_result bne_iff_ne s,
    completeSkip_result beq_iff_eq s, completeSkip_result bne_iff_ne s⟩

end Sys2Proof.Machine
end

section
/-! PROOFS. Register results (41_alu.md): a register write joins the frame of what follows it, the result of an
instruction that writes one register and goes on, and the load, copy, constant and logic instructions. -/

namespace Sys2Proof.Machine

/-- A write of `V[x]` first adds `x` to the registers that what follows writes. -/
theorem WritesOnlyRegs.of_setReg {named : List RegIdx} {s t : State} {x : RegIdx} {b : Byte}
    (h : WritesOnlyRegs named (s.setReg x b) t) : WritesOnlyRegs (x :: named) s t := by
  obtain ⟨hregs, hrest⟩ := h
  refine ⟨fun r hr => ?_, hrest⟩
  obtain ⟨hx, hnamed⟩ := List.ne_and_not_mem_of_not_mem_cons hr
  rw [hregs r hnamed, s.setReg_reg_ne b (Ne.symm hx)]

/-- Writing `V[x]` and going on: the register holds the byte, and nothing else is written, `VF` included. -/
theorem writeReg_result (x : RegIdx) (b : Byte) (s : State) :
    ∃ t, writeReg x b s = .next t ∧ t.reg x = b ∧ t.pc = s.pc + 2 ∧ WritesOnlyRegs [x] s t :=
  ⟨_, (completeSeq_next _ _).mpr rfl, s.setReg_reg_self x b, rfl, (State.endCycle_writesOnlyRegs _ _).of_setReg⟩

/-- Settles O25: each of the six instructions writes one register and goes on (rules R130 to R135); the sum of ADD is
the one of bytes, so modulo 256 as a number. -/
theorem loadAddConstantLogicResults : Obligations.LoadAddConstantLogicResults := by
  intro x y kk s
  refine ⟨writeReg_result x kk s, ?_, writeReg_result x _ s, writeReg_result x _ s, writeReg_result x _ s,
    writeReg_result x _ s⟩
  obtain ⟨t, ht, hsum, hframe⟩ := writeReg_result x (s.reg x + kk) s
  exact ⟨t, ht, by rw [hsum, BitVec.toNat_add], hframe⟩

end Sys2Proof.Machine
end

section
/-! PROOFS. Index results (42_index_memory.md): the numbers the two addresses stand for, and the result of an
instruction that writes `I` and goes on. -/

namespace Sys2Proof.Machine

/-- An address constant as a word is the same number. -/
theorem addrWord_toNat (nnn : BitVec 12) : (addrWord nnn).toNat = nnn.toNat :=
  BitVec.toNat_setWidth_of_le (by decide)

/-- A byte widened to a word is the same number. -/
theorem toWord_toNat (b : Byte) : b.toWord.toNat = b.toNat :=
  BitVec.toNat_setWidth_of_le (by decide)

/-- A glyph address never wraps: the largest is `0x50 + 5 * 255` (rule R162). -/
theorem glyphAddress_toNat (b : Byte) : (glyphAddress b).toNat = 0x50 + 5 * b.toNat := by
  have hlt : b.toNat < 256 := b.isLt
  simp only [glyphAddress, Config.fontBase, BitVec.toNat_add, BitVec.toNat_mul, BitVec.ofNat_eq_ofNat,
    BitVec.toNat_ofNat, toWord_toNat]
  omega

/-- Writing `I` and going on: `I` holds the word, and nothing else is written, `VF` included. -/
theorem writeIndex_result (a : Word) (s : State) :
    ∃ t, writeIndex a s = .next t ∧ t.i = a ∧ t.pc = s.pc + 2 ∧ WritesOnlyRegs [] (s.setI t.i) t :=
  ⟨_, (completeSeq_next _ _).mpr rfl, rfl, rfl, State.endCycle_writesOnlyRegs _ _⟩

/-- Settles O31: both instructions write `I` and go on, the first its constant (rule R160), the second the address of
a glyph (rule R162). -/
theorem setIndexResults : Obligations.SetIndexResults := by
  intro nnn x s
  obtain ⟨t, ht, hconst, hframe⟩ := writeIndex_result (addrWord nnn) s
  obtain ⟨u, hu, hglyph, hframe'⟩ := writeIndex_result (glyphAddress (s.reg x)) s
  exact ⟨⟨t, ht, by rw [hconst, addrWord_toNat], hframe⟩, ⟨u, hu, by rw [hglyph, glyphAddress_toNat], hframe'⟩⟩

end Sys2Proof.Machine
end

section
/-! PROOFS. Display results (43_display.md): replacing the framebuffer and going on, and the clear screen that
follows from it. -/

namespace Sys2Proof.Machine

/-- Replacing the framebuffer and going on: the screen is the given one, and nothing else is written, `VF` included. -/
theorem completeSeq_setFb_result (fb : Framebuffer) (s : State) :
    ∃ t, completeSeq (s.setFb fb) = .next t ∧ t.fb = fb ∧ t.pc = s.pc + 2 ∧ WritesOnlyRegs [] (s.setFb t.fb) t :=
  ⟨_, (completeSeq_next _ _).mpr rfl, rfl, rfl, State.endCycle_writesOnlyRegs _ _⟩

/-- Settles O38: CLS replaces the framebuffer by the blank one (rule R180), whose every pixel is 0. -/
theorem clearScreenResult : Obligations.ClearScreenResult := by
  intro s
  obtain ⟨t, ht, hblank, hpc, hframe⟩ := completeSeq_setFb_result Framebuffer.blank s
  have hpixels : ∀ x y, x < 64 → y < 32 → t.fb.pixel x y = false := fun x y _ _ => by
    rw [hblank, Framebuffer.pixel_blank]
  exact ⟨t, ht, hpixels, hpc, hframe⟩

end Sys2Proof.Machine
end

section
/-! PROOFS. Input and timers (44_input_timers.md): the delay timer of the frame, and the two instructions that wait for
a key and that read or set the timer. -/

namespace Sys2Proof.Machine

/-- The frame says that the cycle counts `DT` down once (rule R222). -/
theorem WritesOnlyRegs.dt_toNat {named : List RegIdx} {s t : State} (h : WritesOnlyRegs named s t) :
    t.dt.toNat = s.dt.toNat - 1 := by
  obtain ⟨_, _, _, _, hdt, _⟩ := h
  exact hdt

/-- Setting `DT` and going on: the cycle's own count follows, and nothing else is written, `VF` included. -/
theorem completeSeq_setDt_result (b : Byte) (s : State) :
    ∃ t, completeSeq (s.setDt b) = .next t ∧ t.dt.toNat = b.toNat - 1 ∧ t.pc = s.pc + 2 ∧
      WritesOnlyRegs [] (s.setDt b) t := by
  have hframe := (s.setDt b).endCycle_writesOnlyRegs (s.pc + 2)
  exact ⟨_, (completeSeq_next _ _).mpr rfl, hframe.dt_toNat, rfl, hframe⟩

/-- Settles O43: with a key pressed the cycle writes the key code and goes on, else it completes at the same `PC` with
nothing written (rule R202). -/
theorem keyWaitResults : Obligations.KeyWaitResults := by
  intro x s
  rcases execLdVxK_cases x s with ⟨hkey, hexec⟩ | ⟨hkey, hexec⟩
  · refine ⟨fun _ => ?_, fun hnone => by simp [hkey] at hnone⟩
    obtain ⟨t, ht, hresult⟩ := writeReg_result x s.key s
    exact ⟨t, hexec.trans ht, hresult⟩
  · refine ⟨fun hsome => by simp [hkey] at hsome, fun _ => ?_⟩
    exact ⟨_, hexec.trans ((complete_next _ _ _).mpr rfl), rfl, s.endCycle_writesOnlyRegs s.pc⟩

/-- Settles O44: LD VX,DT writes the timer as the cycle found it (rule R204), LD DT,VX sets it before the count (rule
R205). -/
theorem delayTimerResults : Obligations.DelayTimerResults := by
  intro x s
  obtain ⟨t, ht, hread, hpc, hframe⟩ := writeReg_result x s.dt s
  exact ⟨⟨t, ht, hread, hframe.dt_toNat, hpc, hframe⟩, completeSeq_setDt_result (s.reg x) s⟩

end Sys2Proof.Machine
end

section
/-! PROOFS. The cycle driver (45_cycle_driver_and_host.md): every instruction, and so every step, completes its cycle or
takes a fault, and what that says of the latch. -/

namespace Sys2Proof.Machine

/-- The two ways a cycle that found `s` ends (rule R220): completed, with the frame of a completed cycle, or a fault
taken on `s` itself. -/
def EndsCycle (s : State) (r : Result) : Prop :=
  (∃ a u, r = complete a u ∧ CycleEnd s (u.endCycle a)) ∨ ∃ f, r = raise f s

/-- A store at `I` goes on with memory replaced, or raises. -/
theorem storeAtI_endsCycle (ws : List Byte) (s : State) : EndsCycle s (storeAtI ws s) := by
  rcases storeAtI_cases ws s with ⟨_, h⟩ | ⟨_, _, h⟩
  · exact .inl ⟨_, _, h, State.endCycle_cycleEnd _ _⟩
  · exact .inr ⟨_, h⟩

/-- Most instructions complete on every state; RET and the four that access memory at `I` can fault, and LD VX,K
completes with a key as without. -/
theorem exec_endsCycle (i : Instr) (s : State) : EndsCycle s (exec i s) := by
  cases i with
  | ret =>
    rcases execRet_cases s with ⟨_, h⟩ | ⟨_, _, _, h⟩
    · exact .inr ⟨_, h⟩
    · exact .inl ⟨_, _, h, State.endCycle_cycleEnd _ _⟩
  | ldVxK x =>
    rcases execLdVxK_cases x s with ⟨_, h⟩ | ⟨_, h⟩
    · exact .inl ⟨_, _, h, State.endCycle_cycleEnd _ _⟩
    · exact .inl ⟨_, _, h, State.endCycle_cycleEnd _ _⟩
  | drwVxVyN x y n =>
    rcases execDrwVxVyN_cases x y n s with ⟨_, h⟩ | ⟨_, _, h⟩
    · exact .inl ⟨_, _, h, State.endCycle_cycleEnd _ _⟩
    · exact .inr ⟨_, h⟩
  | ldVxMem x =>
    rcases execLdVxMem_cases x s with ⟨_, h⟩ | ⟨_, h⟩
    · exact .inl ⟨_, _, h, State.endCycle_cycleEnd _ _⟩
    · exact .inr ⟨_, h⟩
  | ldBVx x => exact storeAtI_endsCycle (bcdDigits (s.reg x)) s
  | ldMemVx x => exact storeAtI_endsCycle (s.dumpBytes x) s
  | cls | jpNnn | callNnn | jpV0Nnn | seVxKk | sneVxKk | seVxVy | sneVxVy | skpVx | sknpVx
  | ldVxKk | addVxKk | ldVxVy | orVxVy | andVxVy | xorVxVy | addVxVy | subVxVy | shrVx | subnVxVy | shlVx | rndVxKk
  | ldINnn | addIVx | ldFVx | ldVxDt | ldDtVx | ldStVx =>
    exact .inl ⟨_, _, rfl, State.endCycle_cycleEnd _ _⟩

/-- A fault of FETCH or DECODE ends the cycle as one of the instruction does (rule R221); only a machine that was never
initialised runs no cycle at all. -/
theorem step_endsCycle {s : State} (hinit : s.initialised = true) : EndsCycle s (step s) := by
  rcases step_cases s with ⟨hno, _⟩ | ⟨_, _, h⟩ | ⟨_, _, _, h⟩ | ⟨_, _, i, _, h⟩
  · simp [hinit] at hno
  · exact .inr ⟨_, h⟩
  · exact .inr ⟨_, h⟩
  · rw [h]
    exact exec_endsCycle i s

/-- A step that answers a next state completed its cycle, or left the halted state of its fault. -/
theorem completed_or_halted_of_step {s t : State} (h : step s = .next t) :
    (t.lastFault = none ∧ CycleEnd s t) ∨ ∃ f, t = s.halt f := by
  have hinit : s.initialised = true := by
    rcases step_cases s with ⟨_, hno⟩ | ⟨hi, _⟩ | ⟨hi, _⟩ | ⟨hi, _⟩
    · simp [hno] at h
    all_goals exact hi
  rcases step_endsCycle hinit with ⟨a, u, he, hend⟩ | ⟨f, he⟩
  · obtain rfl := (complete_next a u t).mp (he.symm.trans h)
    exact .inl ⟨u.endCycle_lastFault a, hend⟩
  · exact .inr ⟨f, ((raise_next f s t).mp (he.symm.trans h)).symm⟩

/-- Settles O11: the end of a completed cycle clears `PRESSED` and keeps `KEY` (rule R224), and a fault runs no latch
phase. -/
theorem latchPhaseOfEveryCycle : Obligations.LatchPhaseOfEveryCycle := by
  intro s t h
  rcases completed_or_halted_of_step h with ⟨hnone, hpressed, hkey, _⟩ | ⟨f, rfl⟩
  · exact ⟨fun _ => ⟨hpressed, hkey⟩, fun hfault => absurd hnone hfault⟩
  · exact ⟨fun hnone => by simp at hnone, fun _ => ⟨s.halt_pressed f, s.halt_key f⟩⟩

end Sys2Proof.Machine
end

section
/-! PROOFS. Host commands (45_cycle_driver_and_host.md): the two branches of `setClockFrequency`. -/

namespace Sys2Proof.Machine

/-- A positive frequency is taken (rule R238). -/
theorem State.setClockFrequency_of_pos {hz : Rat} (h : 0 < hz) (s : State) :
    s.setClockFrequency hz = s.setClockHz hz :=
  if_pos h

/-- Any other is ignored (rule R238). -/
theorem State.setClockFrequency_of_nonpos {hz : Rat} (h : hz ≤ 0) (s : State) : s.setClockFrequency hz = s :=
  if_neg (not_lt_of_ge h)

/-- Settles O54: the command performs `setClockFrequency`, so by the sign of `hz` it writes `CLOCK_HZ` alone or nothing
(rule R238). -/
theorem setClockFrequencyResult : Obligations.SetClockFrequencyResult := by
  intro hz s
  refine ⟨fun hpos => ⟨s.setClockHz hz, ?_, s.setClockHz_clockHz hz, rfl⟩, fun hnonpos => ?_⟩
  · rw [perform, State.setClockFrequency_of_pos hpos]
  · rw [perform, State.setClockFrequency_of_nonpos hnonpos]

end Sys2Proof.Machine
end

section
/-! PROOFS. Decoding the encoder's words (30_encoding.md): what each sub-decoder reads of its format, and the round trip
of every well-formed instruction. -/

namespace Sys2Proof

/-- The canonical value of the unexamined bits is accepted under both values of `ALIAS_DECODE` (rule R88). -/
@[simp] theorem unexaminedOk_zero (p : AliasDecode) : unexaminedOk p 0 = true := by
  cases p <;> rfl

/-- With `ALIAS_DECODE = execute` every value of them is accepted (rule R88). -/
@[simp] theorem unexaminedOk_execute (bits : Nat) : unexaminedOk .execute bits = true := rfl

/-- With `ALIAS_DECODE = fault` only the canonical value is (rule R88). -/
@[simp] theorem unexaminedOk_fault (bits : Nat) : unexaminedOk .fault bits = true ↔ bits = 0 :=
  beq_iff_eq

/-- The decoder reads back the group and the fields the format put into the word; only the row count of DRW has to
fit. -/
theorem decodeWith_encode (p : AliasDecode) {i : Instr} (hwf : i.WellFormed) : decodeWith p (encode i) = some i := by
  cases i with
  | jpNnn | callNnn | ldINnn | jpV0Nnn =>
    simp [encode, decodeWith, fieldG_formatA, fieldNNN_formatA]
  | seVxKk | sneVxKk | ldVxKk | addVxKk | rndVxKk =>
    simp [encode, decodeWith, fieldG_formatK, fieldX_formatK, fieldKK_formatK]
  | cls | ret =>
    simp [encode, decodeWith, decodeGroup0, fieldG_formatK, fieldX_formatK, fieldKK_formatK]
  | skpVx | sknpVx =>
    simp [encode, formatS, decodeWith, decodeGroupE, fieldG_formatK, fieldX_formatK, fieldKK_formatK]
  | ldVxDt | ldVxK | ldDtVx | ldStVx | addIVx | ldFVx | ldBVx | ldMemVx | ldVxMem =>
    simp [encode, formatS, decodeWith, decodeGroupF, fieldG_formatK, fieldX_formatK, fieldKK_formatK]
  | seVxVy | sneVxVy =>
    simp [encode, decodeWith, fieldG_formatR, fieldX_formatR, fieldY_formatR, fieldN_formatR]
  | ldVxVy | orVxVy | andVxVy | xorVxVy | addVxVy | subVxVy | shrVx | subnVxVy | shlVx =>
    simp [encode, decodeWith, decodeGroup8, fieldG_formatR, fieldX_formatR, fieldY_formatR, fieldN_formatR]
  | drwVxVyN x y n =>
    have hn : n ≤ 15 := of_decide_eq_true hwf
    have hfit : n % 16 = n := Nat.mod_eq_of_lt (by omega)
    simp [encode, decodeWith, fieldG_formatR, fieldX_formatR, fieldY_formatR, fieldN_formatR, hfit]

/-- Settles O1: the format of each instruction gives its fields back, and its unexamined bits are canonical. -/
theorem decodeEncodeRoundTrip : Obligations.DecodeEncodeRoundTrip :=
  fun p _ hwf => decodeWith_encode p hwf

/-- Settles O6: each sample word is evaluated from its bytes (rule R87). -/
theorem sampleWordsDecode : Obligations.SampleWordsDecode := by
  unfold Obligations.SampleWordsDecode
  decide

end Sys2Proof
end

section
/-! PROOFS. Encoding what was decoded (30_encoding.md): a word is its format's reading of its own fields, the masks of
rule R88, and from these the canonical form of every word that decodes. -/

namespace Sys2Proof

/-! ## A word from its own fields (rules R81, R82) -/

theorem formatA_fields {w : Word} {g : BitVec 4} (hG : fieldG w = g.toNat) : formatA g (fieldNNN w) = w := by
  apply BitVec.eq_of_toNat_eq
  rw [formatA_toNat, fieldNNN_toNat, ← hG, fieldG_eq]
  omega

theorem formatK_fields {w : Word} {g : BitVec 4} (hG : fieldG w = g.toNat) :
    formatK g (fieldX w) (fieldKK w) = w := by
  apply BitVec.eq_of_toNat_eq
  rw [formatK_toNat, fieldX_val, fieldKK_toNat, ← hG, fieldG_eq]
  omega

theorem formatR_fields {w : Word} {g n : BitVec 4} (hG : fieldG w = g.toNat) (hN : fieldN w = n.toNat) :
    formatR g (fieldX w) (fieldY w) n = w := by
  apply BitVec.eq_of_toNat_eq
  rw [formatR_toNat, fieldX_val, fieldY_val, ← hG, ← hN, fieldG_eq, fieldN_eq]
  omega

/-! ## The word with its unexamined bits 0 (rule R88) -/

/-- Without X: group 0x0. -/
theorem formatK_zero_fields {w : Word} {g : BitVec 4} (hG : fieldG w = g.toNat) {kk : Byte}
    (hKK : (fieldKK w).toNat = kk.toNat) : formatK g 0 kk = w &&& 0xF0FF := by
  apply BitVec.eq_of_toNat_eq
  rw [formatK_toNat, mask_group_byte, hG, hKK, Fin.val_zero, Nat.zero_mul, Nat.add_zero]

/-- Without N: groups 0x5 and 0x9. -/
theorem formatR_zero_nibble {w : Word} {g : BitVec 4} (hG : fieldG w = g.toNat) :
    formatR g (fieldX w) (fieldY w) 0 = w &&& 0xFFF0 := by
  have hmask : w &&& 0xFFF0 = w.extractLsb' 4 12 ++ 0#4 := by
    apply BitVec.eq_of_getLsbD_eq; intro k hk
    rw [BitVec.getLsbD_append]
    interval_cases k <;> simp
  apply BitVec.eq_of_toNat_eq
  rw [formatR_toNat, hmask, toNat_append_add, fieldX_val, fieldY_val, ← hG, fieldG_eq]
  have := w.isLt
  simp [Nat.shiftRight_eq_div_pow]
  omega

/-- Without Y: the two shifts. -/
theorem formatR_zero_register {w : Word} {g n : BitVec 4} (hG : fieldG w = g.toNat) (hN : fieldN w = n.toNat) :
    formatR g (fieldX w) 0 n = w &&& 0xFF0F := by
  have hmask : w &&& 0xFF0F = w.extractLsb' 8 8 ++ (0#4 ++ w.extractLsb' 0 4) := by
    apply BitVec.eq_of_getLsbD_eq; intro k hk
    rw [BitVec.getLsbD_append, BitVec.getLsbD_append]
    interval_cases k <;> simp
  apply BitVec.eq_of_toNat_eq
  rw [formatR_toNat, hmask, toNat_append_add, toNat_append_add, fieldX_val, ← hG, ← hN, fieldG_eq, fieldN_eq]
  have := w.isLt
  simp [Nat.shiftRight_eq_div_pow]
  omega

/-! ## The canonical word, by group -/

theorem canonicalWord_group0 {w : Word} (hG : fieldG w = 0x0) : canonicalWord w = w &&& 0xF0FF := by
  simp [canonicalWord, hG]

theorem canonicalWord_group59 {w : Word} (hG : fieldG w = 0x5 ∨ fieldG w = 0x9) :
    canonicalWord w = w &&& 0xFFF0 := by
  have h0 : fieldG w ≠ 0x0 := by omega
  rw [canonicalWord, if_neg h0, if_pos hG]

theorem canonicalWord_shift {w : Word} (hG : fieldG w = 0x8) (hN : fieldN w = 0x6 ∨ fieldN w = 0xE) :
    canonicalWord w = w &&& 0xFF0F := by
  simp [canonicalWord, hG, hN]

theorem canonicalWord_group8 {w : Word} (hG : fieldG w = 0x8) (h6 : fieldN w ≠ 0x6) (hE : fieldN w ≠ 0xE) :
    canonicalWord w = w := by
  simp [canonicalWord, hG, h6, hE]

theorem canonicalWord_rest {w : Word} (h : fieldG w ∉ [0x0, 0x5, 0x8, 0x9]) : canonicalWord w = w := by
  simp only [List.mem_cons, List.not_mem_nil, or_false, not_or] at h
  obtain ⟨h0, h5, h8, h9⟩ := h
  simp [canonicalWord, h0, h5, h8, h9]

/-! ## Encoding what a sub-decoder answers -/

theorem encode_of_decodeGroup0 {p : AliasDecode} {w : Word} {i : Instr} (hG : fieldG w = 0x0)
    (h : decodeGroup0 p w = some i) : i.WellFormed ∧ encode i = canonicalWord w := by
  rw [canonicalWord_group0 hG]
  unfold decodeGroup0 at h
  split at h
  · split at h
    case h_1 hKK => cases h; exact ⟨rfl, formatK_zero_fields hG hKK⟩
    case h_2 hKK => cases h; exact ⟨rfl, formatK_zero_fields hG hKK⟩
    case h_3 => cases h
  · cases h

theorem encode_of_decodeGroup8 {w : Word} {i : Instr} (hG : fieldG w = 0x8) (h : decodeGroup8 w = some i) :
    i.WellFormed ∧ encode i = canonicalWord w := by
  unfold decodeGroup8 at h
  split at h
  case h_7 hN => cases h; exact ⟨rfl, by rw [canonicalWord_shift hG (.inl hN)]; exact formatR_zero_register hG hN⟩
  case h_9 hN => cases h; exact ⟨rfl, by rw [canonicalWord_shift hG (.inr hN)]; exact formatR_zero_register hG hN⟩
  case h_10 => cases h
  all_goals
    rename_i hN
    cases h
    exact ⟨rfl, by rw [canonicalWord_group8 hG (by omega) (by omega)]; exact formatR_fields hG hN⟩

/-- The words of groups 0xE and 0xF: the sub-opcode is the low byte. -/
theorem formatS_fields {w : Word} {g : BitVec 4} {sub : Byte} (hG : fieldG w = g.toNat)
    (hKK : (fieldKK w).toNat = sub.toNat) : formatS g (fieldX w) sub = w := by
  rw [formatS, ← BitVec.eq_of_toNat_eq hKK, formatK_fields hG]

theorem encode_of_decodeGroupE {w : Word} {i : Instr} (hG : fieldG w = 0xE) (h : decodeGroupE w = some i) :
    i.WellFormed ∧ encode i = canonicalWord w := by
  rw [canonicalWord_rest (by simp [hG])]
  unfold decodeGroupE at h
  split at h
  case h_3 => cases h
  all_goals
    rename_i hKK
    cases h
    exact ⟨rfl, formatS_fields hG hKK⟩

theorem encode_of_decodeGroupF {w : Word} {i : Instr} (hG : fieldG w = 0xF) (h : decodeGroupF w = some i) :
    i.WellFormed ∧ encode i = canonicalWord w := by
  rw [canonicalWord_rest (by simp [hG])]
  unfold decodeGroupF at h
  split at h
  case h_10 => cases h
  all_goals
    rename_i hKK
    cases h
    exact ⟨rfl, formatS_fields hG hKK⟩

/-- What any word decodes to is well-formed, and its encoding is the canonical word. -/
theorem encode_of_decodeWith {p : AliasDecode} {w : Word} {i : Instr} (h : decodeWith p w = some i) :
    i.WellFormed ∧ encode i = canonicalWord w := by
  unfold decodeWith at h
  -- The arms stand in the order of the groups: arm `h_1` is group 0x0, arm `h_16` group 0xF.
  split at h
  case h_1 hG => exact encode_of_decodeGroup0 hG h
  case h_9 hG => exact encode_of_decodeGroup8 hG h
  case h_15 hG => exact encode_of_decodeGroupE hG h
  case h_16 hG => exact encode_of_decodeGroupF hG h
  case h_17 => cases h
  case h_6 hG =>
    split at h
    · cases h
      exact ⟨rfl, by rw [canonicalWord_group59 (.inl hG)]; exact formatR_zero_nibble hG⟩
    · cases h
  case h_10 hG =>
    split at h
    · cases h
      exact ⟨rfl, by rw [canonicalWord_group59 (.inr hG)]; exact formatR_zero_nibble hG⟩
    · cases h
  case h_2 hG | h_3 hG | h_11 hG | h_12 hG =>
    cases h
    exact ⟨rfl, by rw [canonicalWord_rest (by simp [hG])]; exact formatA_fields hG⟩
  case h_4 hG | h_5 hG | h_7 hG | h_8 hG | h_13 hG =>
    cases h
    exact ⟨rfl, by rw [canonicalWord_rest (by simp [hG])]; exact formatK_fields hG⟩
  case h_14 hG =>
    cases h
    have hlt : fieldN w < 16 := (w.extractLsb' 0 4).isLt
    refine ⟨decide_eq_true (by omega), ?_⟩
    rw [canonicalWord_rest (by simp [hG])]
    exact formatR_fields hG (by simp [Nat.mod_eq_of_lt hlt])

/-- Settles O2: what holds of either value of `ALIAS_DECODE` holds of its default. -/
theorem encodeOfDecodeIsCanonical : Obligations.EncodeOfDecodeIsCanonical :=
  fun _ _ h => encode_of_decodeWith h

end Sys2Proof
end

section
/-! PROOFS. The opcode map (30_encoding.md): which words decode to nothing, group by group; that the rows of the map
examine the bits the decoder examines; and the agreement of the two. -/

namespace Sys2Proof

/-! ## Words that decode to nothing (rule R89) -/

theorem fieldG_lt (w : Word) : fieldG w < 16 := (w.extractLsb' 12 4).isLt

theorem fieldN_lt (w : Word) : fieldN w < 16 := (w.extractLsb' 0 4).isLt

/-- Two bytes are equal when their numbers are; the sub-decoders compare numbers, rule R89 bytes. -/
theorem fieldKK_eq_iff (w : Word) (b : Byte) : fieldKK w = b ↔ (fieldKK w).toNat = b.toNat :=
  BitVec.toNat_inj.symm

theorem decodeGroup0_eq_none (w : Word) :
    decodeGroup0 .execute w = none ↔ fieldKK w ≠ 0xE0 ∧ fieldKK w ≠ 0xEE := by
  rw [decodeGroup0, unexaminedOk_execute, if_pos rfl, Ne, Ne, fieldKK_eq_iff, fieldKK_eq_iff]
  split <;> simp_all

theorem decodeGroup8_eq_none (w : Word) :
    decodeGroup8 w = none ↔ fieldN w ∈ [0x8, 0x9, 0xA, 0xB, 0xC, 0xD, 0xF] := by
  have hlt := fieldN_lt w
  unfold decodeGroup8
  split
  case h_10 =>
    simp only [imp_false, List.mem_cons, List.not_mem_nil, or_false, true_iff] at *
    omega
  all_goals rename_i hN; simp [hN]

theorem decodeGroupE_eq_none (w : Word) : decodeGroupE w = none ↔ fieldKK w ≠ 0x9E ∧ fieldKK w ≠ 0xA1 := by
  rw [decodeGroupE, Ne, Ne, fieldKK_eq_iff, fieldKK_eq_iff]
  split <;> simp_all

theorem decodeGroupF_eq_none (w : Word) : decodeGroupF w = none ↔
    fieldKK w ∉ ([0x07, 0x0A, 0x15, 0x18, 0x1E, 0x29, 0x33, 0x55, 0x65] : List Byte) := by
  simp only [decodeGroupF, List.mem_cons, List.not_mem_nil, or_false, not_or, fieldKK_eq_iff]
  split <;> simp_all

/-- Settles O4: the four groups with sub-opcodes have words of no row, every other group decodes whole (rule R89). -/
theorem unknownOpcodesAreExactly : Obligations.UnknownOpcodesAreExactly := by
  intro w
  have hlt := fieldG_lt w
  rw [decodeWord, aliasDecode, decodeWith]
  split
  case h_1 hG => simp [hG, decodeGroup0_eq_none]
  case h_9 hG => simp only [hG, decodeGroup8_eq_none]; simp
  case h_15 hG => simp [hG, decodeGroupE_eq_none]
  case h_16 hG => simp only [hG, decodeGroupF_eq_none]; simp
  case h_17 =>
    simp only [imp_false] at *
    omega
  all_goals rename_i hG; simp [hG]

/-! ## The masks of the map (rule R86) -/

/-- A row that examines some bits fixes them in every word that selects it. -/
theorem OpcodeRow.and_eq_of_selects {r : OpcodeRow} {w m : Word} (h : r.selects w = true)
    (hm : r.mask &&& m = m) : w &&& m = r.bits &&& m := by
  have hw : w &&& r.mask = r.bits := beq_iff_eq.mp h
  rw [← hw, BitVec.and_assoc, hm]

/-- A row that examines none of the bits cleared is selected by the word they were cleared in. -/
theorem OpcodeRow.selects_of_selects_and {r : OpcodeRow} {w m : Word} (hm : m &&& r.mask = r.mask)
    (h : r.selects (w &&& m) = true) : r.selects w = true := by
  have hw : w &&& m &&& r.mask = r.bits := beq_iff_eq.mp h
  rw [BitVec.and_assoc, hm] at hw
  exact beq_iff_eq.mpr hw

/-- Every row examines the group. -/
theorem opcodeRows_mask_group : ∀ r ∈ opcodeRows, r.mask &&& 0xF000 = 0xF000 := by decide

/-- In group 0x8 every row examines the low nibble. -/
theorem opcodeRows_mask_nibble : ∀ r ∈ opcodeRows, fieldG r.bits = 0x8 → r.mask &&& 0xF00F = 0xF00F := by decide

/-- In groups 0x0, 0xE and 0xF every row examines the low byte. -/
theorem opcodeRows_mask_byte :
    ∀ r ∈ opcodeRows, fieldG r.bits ∈ [0x0, 0xE, 0xF] → r.mask &&& 0xF0FF = 0xF0FF := by decide

/-- No row of group 0x0 examines X, none of groups 0x5 and 0x9 examines N, none of group 0x8 examines Y. -/
theorem opcodeRows_mask_unexamined : ∀ r ∈ opcodeRows,
    (fieldG r.bits = 0x0 → 0xF0FF &&& r.mask = r.mask) ∧
    (fieldG r.bits = 0x5 ∨ fieldG r.bits = 0x9 → 0xFFF0 &&& r.mask = r.mask) ∧
    (fieldG r.bits = 0x8 → 0xFF0F &&& r.mask = r.mask) := by decide

/-- Two rows whose bits agree wherever both look are one row. -/
theorem opcodeRows_disjoint :
    ∀ r ∈ opcodeRows, ∀ q ∈ opcodeRows, r.bits &&& q.mask = q.bits &&& r.mask → r = q := by decide

/-- The bits of every row are an instruction. -/
theorem opcodeRows_bits_decode : ∀ r ∈ opcodeRows, decodeWord r.bits ≠ none := by decide

theorem fieldG_congr {w v : Word} (h : w &&& 0xF000 = v &&& 0xF000) : fieldG w = fieldG v := by
  have hnat := congrArg BitVec.toNat h
  rw [mask_group, mask_group] at hnat
  omega

theorem fieldN_congr {w v : Word} (h : w &&& 0xF00F = v &&& 0xF00F) (hG : fieldG w = fieldG v) :
    fieldN w = fieldN v := by
  have hnat := congrArg BitVec.toNat h
  rw [mask_group_nibble, mask_group_nibble] at hnat
  omega

theorem fieldKK_congr {w v : Word} (h : w &&& 0xF0FF = v &&& 0xF0FF) (hG : fieldG w = fieldG v) :
    fieldKK w = fieldKK v := by
  have hnat := congrArg BitVec.toNat h
  rw [mask_group_byte, mask_group_byte] at hnat
  exact BitVec.eq_of_toNat_eq (by omega)

/-- A word that selects a row is in the row's group. -/
theorem fieldG_of_selects {r : OpcodeRow} (hr : r ∈ opcodeRows) {w : Word} (h : r.selects w = true) :
    fieldG w = fieldG r.bits :=
  fieldG_congr (r.and_eq_of_selects h (opcodeRows_mask_group r hr))

/-- Whether a word decodes depends on its group, and in the groups with sub-opcodes on the sub-opcode. -/
theorem decodeWord_eq_none_congr {w v : Word} (hG : fieldG w = fieldG v)
    (hN : fieldG v = 0x8 → fieldN w = fieldN v) (hKK : fieldG v ∈ [0x0, 0xE, 0xF] → fieldKK w = fieldKK v) :
    decodeWord w = none ↔ decodeWord v = none := by
  rw [unknownOpcodesAreExactly w, unknownOpcodesAreExactly v, hG]
  by_cases h8 : fieldG v = 0x8
  · simp [h8, hN h8]
  · by_cases hsub : fieldG v ∈ [0x0, 0xE, 0xF]
    · simp [h8, hKK hsub]
    · simp only [List.mem_cons, List.not_mem_nil, or_false, not_or] at hsub
      simp [h8, hsub]

/-- A word that selects a row decodes. -/
theorem decodeWord_ne_none_of_selects {r : OpcodeRow} (hr : r ∈ opcodeRows) {w : Word} (h : r.selects w = true) :
    decodeWord w ≠ none := by
  have hG := fieldG_of_selects hr h
  have hN : fieldG r.bits = 0x8 → fieldN w = fieldN r.bits := fun h8 =>
    fieldN_congr (r.and_eq_of_selects h (opcodeRows_mask_nibble r hr h8)) hG
  have hKK : fieldG r.bits ∈ [0x0, 0xE, 0xF] → fieldKK w = fieldKK r.bits := fun hsub =>
    fieldKK_congr (r.and_eq_of_selects h (opcodeRows_mask_byte r hr hsub)) hG
  rw [Ne, decodeWord_eq_none_congr hG hN hKK]
  exact opcodeRows_bits_decode r hr

/-! ## The canonical word selects the same row -/

theorem fieldG_and {m : Word} (w : Word) (hm : m &&& 0xF000 = 0xF000) : fieldG (w &&& m) = fieldG w :=
  fieldG_congr (by rw [BitVec.and_assoc, hm])

theorem selects_of_selects_canonicalWord {r : OpcodeRow} (hr : r ∈ opcodeRows) {w : Word}
    (h : r.selects (canonicalWord w) = true) : r.selects w = true := by
  obtain ⟨h0, h59, h8⟩ := opcodeRows_mask_unexamined r hr
  have hG := fieldG_of_selects hr h
  unfold canonicalWord at h hG
  split at h
  case isTrue hw =>
    rw [if_pos hw, fieldG_and w (by decide), hw] at hG
    exact r.selects_of_selects_and (h0 hG.symm) h
  case isFalse hw0 =>
    rw [if_neg hw0] at hG
    split at h
    case isTrue hw =>
      rw [if_pos hw, fieldG_and w (by decide)] at hG
      exact r.selects_of_selects_and (h59 (hG ▸ hw)) h
    case isFalse hw59 =>
      rw [if_neg hw59] at hG
      split at h
      case isTrue hw =>
        rw [if_pos hw, fieldG_and w (by decide), hw.1] at hG
        exact r.selects_of_selects_and (h8 hG.symm) h
      case isFalse => exact h

/-- The canonical encoding of every well-formed instruction selects the row of its mnemonic. -/
theorem encode_selects_row : ∀ i : Instr, Laws.SelectsItsRow.Statement i
  | .cls => Laws.SelectsItsRow.cls
  | .ret => Laws.SelectsItsRow.ret
  | .jpNnn nnn => Laws.SelectsItsRow.jpNnn nnn
  | .callNnn nnn => Laws.SelectsItsRow.callNnn nnn
  | .seVxKk x kk => Laws.SelectsItsRow.seVxKk x kk
  | .sneVxKk x kk => Laws.SelectsItsRow.sneVxKk x kk
  | .seVxVy x y => Laws.SelectsItsRow.seVxVy x y
  | .ldVxKk x kk => Laws.SelectsItsRow.ldVxKk x kk
  | .addVxKk x kk => Laws.SelectsItsRow.addVxKk x kk
  | .ldVxVy x y => Laws.SelectsItsRow.ldVxVy x y
  | .orVxVy x y => Laws.SelectsItsRow.orVxVy x y
  | .andVxVy x y => Laws.SelectsItsRow.andVxVy x y
  | .xorVxVy x y => Laws.SelectsItsRow.xorVxVy x y
  | .addVxVy x y => Laws.SelectsItsRow.addVxVy x y
  | .subVxVy x y => Laws.SelectsItsRow.subVxVy x y
  | .shrVx x => Laws.SelectsItsRow.shrVx x
  | .subnVxVy x y => Laws.SelectsItsRow.subnVxVy x y
  | .shlVx x => Laws.SelectsItsRow.shlVx x
  | .sneVxVy x y => Laws.SelectsItsRow.sneVxVy x y
  | .ldINnn nnn => Laws.SelectsItsRow.ldINnn nnn
  | .jpV0Nnn nnn => Laws.SelectsItsRow.jpV0Nnn nnn
  | .rndVxKk x kk => Laws.SelectsItsRow.rndVxKk x kk
  | .drwVxVyN x y n => Laws.SelectsItsRow.drwVxVyN x y n
  | .skpVx x => Laws.SelectsItsRow.skpVx x
  | .sknpVx x => Laws.SelectsItsRow.sknpVx x
  | .ldVxDt x => Laws.SelectsItsRow.ldVxDt x
  | .ldVxK x => Laws.SelectsItsRow.ldVxK x
  | .ldDtVx x => Laws.SelectsItsRow.ldDtVx x
  | .ldStVx x => Laws.SelectsItsRow.ldStVx x
  | .addIVx x => Laws.SelectsItsRow.addIVx x
  | .ldFVx x => Laws.SelectsItsRow.ldFVx x
  | .ldBVx x => Laws.SelectsItsRow.ldBVx x
  | .ldMemVx x => Laws.SelectsItsRow.ldMemVx x
  | .ldVxMem x => Laws.SelectsItsRow.ldVxMem x

/-- A decoded word selects the row of its instruction, because its canonical form does. -/
theorem selects_row_of_decodeWord {w : Word} {i : Instr} (h : decodeWord w = some i) :
    ∃ r ∈ opcodeRows, r.mnemonic = i.mnemonic ∧ r.selects w = true := by
  obtain ⟨hwf, henc⟩ := encode_of_decodeWith h
  obtain ⟨r, hr, hname, hsel⟩ := encode_selects_row i hwf
  exact ⟨r, hr, hname, selects_of_selects_canonicalWord hr (henc ▸ hsel)⟩

/-- Settles O3: the rows are disjoint where they look (rule R86), and a word selects one exactly when it decodes. -/
theorem decodeMatchesOpcodeMap : Obligations.DecodeMatchesOpcodeMap := by
  refine ⟨rfl, fun r hr q hq w hrw hqw => ?_, fun w i h => selects_row_of_decodeWord h, fun w => ⟨fun hnone r hr => ?_,
    fun hno => ?_⟩⟩
  · have hbits : w &&& r.mask = r.bits := beq_iff_eq.mp hrw
    have hbits' : w &&& q.mask = q.bits := beq_iff_eq.mp hqw
    refine opcodeRows_disjoint r hr q hq ?_
    rw [← hbits, ← hbits', BitVec.and_assoc, BitVec.and_assoc, BitVec.and_comm r.mask]
  · exact Bool.eq_false_iff.mpr fun hsel => decodeWord_ne_none_of_selects hr hsel hnone
  · refine Option.eq_none_iff_forall_ne_some.mpr fun i hi => ?_
    obtain ⟨r, hr, _, hsel⟩ := selects_row_of_decodeWord hi
    simp [hno r hr] at hsel

/-! ## The parameter `ALIAS_DECODE` (rule R88) -/

/-- Settles O5: the two values differ only in the test of X in group 0x0 and of N in groups 0x5 and 0x9. -/
theorem aliasFaultRefusesOnlyNonCanonical : Obligations.AliasFaultRefusesOnlyNonCanonical := by
  intro w i
  unfold decodeWith
  split
  case h_1 hG => by_cases hX : fieldX w = 0 <;> simp [hG, hX, decodeGroup0]
  case h_6 hG => by_cases hN : fieldN w = 0 <;> simp [hG, hN]
  case h_10 hG => by_cases hN : fieldN w = 0 <;> simp [hG, hN]
  all_goals rename_i hG; simp [hG]

end Sys2Proof
end

section
/-! PROOFS. Every instruction in one shape (45_cycle_driver_and_host.md rule R220): the fault it raises, if any, the
writes it makes before the phases that end the cycle, and that `exec` is nothing but these. -/

namespace Sys2Proof.Machine

/-- `VF` first, then the result, computed from the registers as that write left them (41_alu.md rule R136). -/
def State.setFlagThenReg (s : State) (flag : Byte) (x : RegIdx) (result : State → Byte) : State :=
  (s.setVF flag).setReg x (result (s.setVF flag))

/-- The state an instruction that completes hands to the phases that end the cycle. -/
def writesOf (i : Instr) (s : State) : State :=
  match i with
  | .cls => s.setFb Framebuffer.blank
  | .ret => s.setStack s.stack.tail
  | .callNnn _ => s.setStack ((s.pc + 2) :: s.stack)
  | .ldVxKk x kk => s.setReg x kk
  | .addVxKk x kk => s.setReg x (s.reg x + kk)
  | .ldVxVy x y => s.setReg x (s.reg y)
  | .orVxVy x y => s.setReg x (s.reg x ||| s.reg y)
  | .andVxVy x y => s.setReg x (s.reg x &&& s.reg y)
  | .xorVxVy x y => s.setReg x (s.reg x ^^^ s.reg y)
  | .addVxVy x y => s.setFlagThenReg (carryFlag (s.reg x) (s.reg y)) x fun t => t.reg x + t.reg y
  | .subVxVy x y => s.setFlagThenReg (greaterFlag (s.reg x) (s.reg y)) x fun t => t.reg x - t.reg y
  | .subnVxVy x y => s.setFlagThenReg (greaterFlag (s.reg y) (s.reg x)) x fun t => t.reg y - t.reg x
  | .shrVx x => s.setFlagThenReg (lowBitFlag (s.reg x)) x fun t => t.reg x >>> 1
  | .shlVx x => s.setFlagThenReg (highBitFlag (s.reg x)) x fun t => t.reg x <<< 1
  | .rndVxKk x kk => (s.setDraws (s.draws + 1)).setReg x (Config.randomByte s.draws &&& kk)
  | .drwVxVyN x y n => (s.setFb (s.drawn x y n).fb).setReg vf (flagByte (s.drawn x y n).collision)
  | .ldINnn nnn => s.setI (addrWord nnn)
  | .addIVx x => s.setI (s.i + (s.reg x).toWord)
  | .ldFVx x => s.setI (glyphAddress (s.reg x))
  | .ldBVx x => s.setMem (s.mem.writeBytes s.base (bcdDigits (s.reg x)))
  | .ldMemVx x => s.setMem (s.mem.writeBytes s.base (s.dumpBytes x))
  | .ldVxMem x => s.setV (State.loadRegs s.mem s.base (regsUpTo x) s).v
  | .ldVxDt x => s.setReg x s.dt
  | .ldVxK x => s.setV (if s.pressed then (s.setReg x s.key).v else s.v)
  | .ldDtVx x => s.setDt (s.reg x)
  | .ldStVx x => s.setSt (s.reg x)
  | _ => s

/-- The fault an instruction raises: RET on the empty stack (60_exceptions.md rule R263), or an access above 0xFFF
(rule R264). -/
def faultOf (i : Instr) (s : State) : Option Fault :=
  match i with
  | .ret => if s.stack = [] then some (.stackUnderflow s.pc) else none
  | i => (firstOutside s.base i.accessLength).map fun a => .memOutOfBounds a s.pc

/-! ## Which faults there are -/

/-- Only RET raises another fault than that of its accesses. -/
theorem faultOf_of_ne_ret {i : Instr} (hi : i ≠ .ret) (s : State) :
    faultOf i s = (firstOutside s.base i.accessLength).map fun a => .memOutOfBounds a s.pc := by
  cases i with
  | ret => exact absurd rfl hi
  | _ => rfl

theorem faultOf_ret_nonempty {s : State} (h : s.stack ≠ []) : faultOf .ret s = none :=
  if_neg h

theorem faultOf_ret_empty {s : State} (h : s.stack = []) : faultOf .ret s = some (.stackUnderflow s.pc) :=
  if_pos h

/-- An instruction whose accesses all exist raises nothing. -/
theorem faultOf_inside {i : Instr} {s : State} (hi : i ≠ .ret)
    (h : i.accessLength = 0 ∨ s.base + i.accessLength ≤ Config.memSize) : faultOf i s = none := by
  rw [faultOf_of_ne_ret hi, firstOutside_none h, Option.map_none]

/-- One that would reach an address above 0xFFF raises MemOutOfBounds there. -/
theorem faultOf_outside {i : Instr} {s : State} (hn : 1 ≤ i.accessLength)
    (h : Config.memSize < s.base + i.accessLength) :
    faultOf i s = some (.memOutOfBounds (max s.base Config.memSize) s.pc) := by
  have hi : i ≠ .ret := by
    rintro rfl
    exact absurd hn (by decide)
  rw [faultOf_of_ne_ret hi, firstOutside_some hn h, Option.map_some]

/-- A fault tells its cause. -/
theorem cause_of_faultOf {i : Instr} {s : State} {f : Fault} (h : faultOf i s = some f) :
    (f = .stackUnderflow s.pc ∧ i = .ret ∧ s.stack = []) ∨
      (f = .memOutOfBounds (max s.base Config.memSize) s.pc ∧ 1 ≤ i.accessLength ∧
        Config.memSize < s.base + i.accessLength) := by
  by_cases hi : i = .ret
  · subst hi
    by_cases hs : s.stack = []
    · rw [faultOf_ret_empty hs] at h
      exact .inl ⟨(Option.some.inj h).symm, rfl, hs⟩
    · rw [faultOf_ret_nonempty hs] at h
      cases h
  · rcases firstOutside_cases s.base i.accessLength with ⟨hnone, _⟩ | ⟨hsome, hn, hout⟩
    · rw [faultOf_of_ne_ret hi, hnone] at h
      cases h
    · rw [faultOf_of_ne_ret hi, hsome] at h
      exact .inr ⟨(Option.some.inj h).symm, hn, hout⟩

/-! ## What `exec` is -/

/-- The two ways an instruction's cycle ends, with what each depends on. -/
def RunsAsListed (i : Instr) (s : State) : Prop :=
  (∃ f, faultOf i s = some f ∧ exec i s = raise f s) ∨
    (faultOf i s = none ∧ exec i s = complete (nextPcOf i s) (writesOf i s))

/-- A skip goes on at the address of its comparison (40_flow_control.md rule R117). -/
theorem completeSkip_eq {holds : Bool} {P : Prop} [Decidable P] (h : holds = true ↔ P) (s : State) :
    completeSkip holds s = complete (if P then s.pc + 4 else s.pc + 2) s :=
  congrArg (complete · s) (if_congr h rfl rfl)

/-- An instruction that guards its accesses runs its body or raises. -/
theorem runsAsListed_of_guard {i : Instr} {s : State} (hi : i ≠ .ret)
    (h : exec i s = guardRange s.base i.accessLength s (complete (nextPcOf i s) (writesOf i s))) :
    RunsAsListed i s := by
  rcases guardRange_cases s.base i.accessLength s (complete (nextPcOf i s) (writesOf i s)) with
    ⟨hin, hbody⟩ | ⟨hn, hout, hraise⟩
  · exact .inr ⟨faultOf_inside hi hin, h.trans hbody⟩
  · exact .inl ⟨_, faultOf_outside hn hout, h.trans hraise⟩

theorem exec_runsAsListed (i : Instr) (s : State) : RunsAsListed i s := by
  cases i with
  | ret =>
    rcases execRet_cases s with ⟨hs, h⟩ | ⟨a, rest, hs, h⟩
    · exact .inl ⟨_, faultOf_ret_empty hs, h⟩
    · have hne : s.stack ≠ [] := by simp [hs]
      exact .inr ⟨faultOf_ret_nonempty hne, h.trans (by simp [nextPcOf, writesOf, hs])⟩
  | ldVxK x =>
    rcases execLdVxK_cases x s with ⟨hp, h⟩ | ⟨hp, h⟩
    · exact .inr ⟨rfl, h.trans (by rw [nextPcOf, writesOf, if_pos hp, if_pos hp]; rfl)⟩
    · have hno : ¬ s.pressed = true := by simp [hp]
      exact .inr ⟨rfl, h.trans (by rw [nextPcOf, writesOf, if_neg hno, if_neg hno]; rfl)⟩
  | seVxKk | seVxVy | skpVx => exact .inr ⟨rfl, completeSkip_eq beq_iff_eq s⟩
  | sneVxKk | sneVxVy | sknpVx => exact .inr ⟨rfl, completeSkip_eq bne_iff_ne s⟩
  | drwVxVyN x y n => exact runsAsListed_of_guard (by simp) rfl
  | ldBVx x => exact runsAsListed_of_guard (by simp) rfl
  | ldMemVx x =>
    refine runsAsListed_of_guard (by simp) ?_
    show storeAtI (s.dumpBytes x) s = _
    rw [storeAtI, State.dumpBytes_length]
    rfl
  | ldVxMem x =>
    refine runsAsListed_of_guard (by simp) ?_
    show execLdVxMem x s = _
    rw [execLdVxMem, State.loadRegs_setV]
    rfl
  | cls | jpNnn | callNnn | jpV0Nnn | ldVxKk | addVxKk | ldVxVy | orVxVy | andVxVy | xorVxVy | addVxVy | subVxVy
  | shrVx | subnVxVy | shlVx | rndVxKk | ldINnn | addIVx | ldFVx | ldVxDt | ldDtVx | ldStVx =>
    exact .inr ⟨rfl, rfl⟩

/-- An instruction that raises nothing completes. -/
theorem exec_complete {i : Instr} {s : State} (h : faultOf i s = none) :
    exec i s = .next ((writesOf i s).endCycle (nextPcOf i s)) := by
  rcases exec_runsAsListed i s with ⟨f, hf, _⟩ | ⟨_, he⟩
  · rw [h] at hf
    cases hf
  · exact he

/-- An instruction that raises a fault leaves the halted state. -/
theorem exec_halt {i : Instr} {s : State} {f : Fault} (h : faultOf i s = some f) : exec i s = .next (s.halt f) := by
  rcases exec_runsAsListed i s with ⟨f', hf, he⟩ | ⟨hnone, _⟩
  · rw [h] at hf
    cases hf
    exact he
  · rw [h] at hnone
    cases hnone

/-- What an instruction's next state can be. -/
theorem exec_next_cases {i : Instr} {s t : State} (h : exec i s = .next t) :
    (∃ f, faultOf i s = some f ∧ t = s.halt f) ∨
      (faultOf i s = none ∧ t = (writesOf i s).endCycle (nextPcOf i s)) := by
  rcases exec_runsAsListed i s with ⟨f, hf, he⟩ | ⟨hf, he⟩
  · exact .inl ⟨f, hf, ((raise_next f s t).mp (he.symm.trans h)).symm⟩
  · exact .inr ⟨hf, ((complete_next _ _ t).mp (he.symm.trans h)).symm⟩

/-- Where the cycle completed, there was no fault to raise. -/
theorem exec_completed {i : Instr} {s t : State} (h : exec i s = .next t) (hnone : t.lastFault = none) :
    faultOf i s = none ∧ t = (writesOf i s).endCycle (nextPcOf i s) := by
  rcases exec_next_cases h with ⟨f, _, rfl⟩ | hdone
  · cases hnone
  · exact hdone

/-- Where it did not, the fault is the instruction's. -/
theorem exec_faulted {i : Instr} {s t : State} {f : Fault} (h : exec i s = .next t) (hf : t.lastFault = some f) :
    faultOf i s = some f := by
  rcases exec_next_cases h with ⟨f', hf', rfl⟩ | ⟨_, rfl⟩
  · cases hf
    exact hf'
  · cases hf

/-- Settles O13: a cycle that completes goes on where the program-counter rule says (rule R223). -/
theorem nextPcOfEveryInstruction : Obligations.NextPcOfEveryInstruction := by
  intro i s t h hnone
  obtain ⟨_, rfl⟩ := exec_completed h hnone
  rfl

/-- Settles O37: the guard stops the access before the instruction's writes (60_exceptions.md rule R264). -/
theorem accessAboveMemoryHalts : Obligations.AccessAboveMemoryHalts := by
  intro i s hn hout
  have hrange : Config.memSize < s.base + i.accessLength := by
    simp only [Config.memSize, State.base]
    omega
  exact ⟨_, exec_halt (faultOf_outside hn hrange), s.halt_haltedBy _⟩

end Sys2Proof.Machine
end

section
/-! PROOFS. What an instruction's writes leave as it was (20_memory.md rule R64, 10_state.md rules R21 to R23, R35, R36),
store by store, and the frames of every cycle that follow. -/

namespace Sys2Proof.Machine

/-! ## Stores an instruction does not reach -/

theorem writesOf_mem {i : Instr} (h : i.storesMemory = false) (s : State) : (writesOf i s).mem = s.mem := by
  cases i with
  | ldBVx | ldMemVx => cases h
  | _ => rfl

theorem writesOf_fb {i : Instr} (h : i.writesScreen = false) (s : State) : (writesOf i s).fb = s.fb := by
  cases i with
  | cls | drwVxVyN => cases h
  | _ => rfl

theorem writesOf_stack {i : Instr} (h : i.usesStack = false) (s : State) : (writesOf i s).stack = s.stack := by
  cases i with
  | callNnn | ret => cases h
  | _ => rfl

theorem writesOf_i {i : Instr} (h : i.writesIndex = false) (s : State) : (writesOf i s).i = s.i := by
  cases i with
  | ldINnn | addIVx | ldFVx => cases h
  | _ => rfl

theorem writesOf_dt {i : Instr} (h : i.writesDelay = false) (s : State) : (writesOf i s).dt = s.dt := by
  cases i with
  | ldDtVx => cases h
  | _ => rfl

theorem writesOf_st {i : Instr} (h : i.writesSound = false) (s : State) : (writesOf i s).st = s.st := by
  cases i with
  | ldStVx => cases h
  | _ => rfl

theorem writesOf_draws {i : Instr} (h : i.drawsRandom = false) (s : State) : (writesOf i s).draws = s.draws := by
  cases i with
  | rndVxKk => cases h
  | _ => rfl

/-- No instruction writes the run state. -/
theorem writesOf_run (i : Instr) (s : State) : (writesOf i s).run = s.run := by
  cases i <;> rfl

theorem writesOf_haltCause (i : Instr) (s : State) : (writesOf i s).haltCause = s.haltCause := by
  cases i <;> rfl

theorem writesOf_clockHz (i : Instr) (s : State) : (writesOf i s).clockHz = s.clockHz := by
  cases i <;> rfl

/-! ## Registers -/

theorem State.setFlagThenReg_reg_ne (s : State) (flag : Byte) {x r : RegIdx} (result : State → Byte)
    (hx : r ≠ x) (hvf : r ≠ vf) : (s.setFlagThenReg flag x result).reg r = s.reg r := by
  rw [State.setFlagThenReg, State.setVF_eq, State.setReg_reg_ne _ _ hx.symm, State.setReg_reg_ne _ _ hvf.symm]

theorem State.setFlagThenReg_vf (s : State) (flag : Byte) {x : RegIdx} (result : State → Byte) (hx : vf ≠ x) :
    (s.setFlagThenReg flag x result).reg vf = flag := by
  rw [State.setFlagThenReg, State.setVF_eq, State.setReg_reg_ne _ _ hx.symm, State.setReg_reg_self]

/-- A flag is 0 or 1 (10_state.md rule R22). -/
theorem flagByte_zero_or_one (b : Bool) : flagByte b = 0 ∨ flagByte b = 1 := by
  cases b
  · exact .inl rfl
  · exact .inr rfl

/-- Only the destinations of an instruction change, and `VF` where it writes a flag. -/
theorem writesOf_reg {i : Instr} {r : RegIdx} (hr : r ∉ i.destinations) (hvf : r ≠ vf ∨ i.writesFlag = false)
    (s : State) : (writesOf i s).reg r = s.reg r := by
  cases i with
  | ldVxKk x | addVxKk x | ldVxVy x | orVxVy x | andVxVy x | xorVxVy x | rndVxKk x | ldVxDt x =>
    exact State.setReg_reg_ne _ _ (Ne.symm (List.ne_of_not_mem_cons hr))
  | addVxVy x | subVxVy x | subnVxVy x | shrVx x | shlVx x =>
    have hne : r ≠ vf := hvf.resolve_right (by simp [Instr.writesFlag])
    exact s.setFlagThenReg_reg_ne _ _ (List.ne_of_not_mem_cons hr) hne
  | drwVxVyN x y n =>
    have hne : r ≠ vf := hvf.resolve_right (by simp [Instr.writesFlag])
    exact State.setReg_reg_ne _ _ hne.symm
  | ldVxK x =>
    have hne : x ≠ r := Ne.symm (List.ne_of_not_mem_cons hr)
    rw [writesOf, State.reg_setV]
    split
    · exact s.setReg_reg_ne _ hne
    · rfl
  | ldVxMem x =>
    exact (State.loadRegs_reg s.mem s.base (regsUpTo x) s r).trans (if_neg hr)
  | _ => rfl

/-- A flag writer leaves 0 or 1 in a `VF` that is not its destination. -/
theorem writesOf_vf {i : Instr} (hflag : i.writesFlag = true) (hvf : vf ∉ i.destinations) (s : State) :
    (writesOf i s).reg vf = 0 ∨ (writesOf i s).reg vf = 1 := by
  cases i with
  | addVxVy x | subVxVy x | subnVxVy x | shrVx x | shlVx x =>
    rw [writesOf, s.setFlagThenReg_vf _ _ (List.ne_of_not_mem_cons hvf)]
    exact flagByte_zero_or_one _
  | drwVxVyN x y n =>
    rw [writesOf, State.setReg_reg_self]
    exact flagByte_zero_or_one _
  | _ => cases hflag

/-! ## Frames of a cycle -/

/-- Settles O12: the timer phase counts `DT` once, from what the instruction left there (rule R222). -/
theorem timersCountCompletedCycles : Obligations.TimersCountCompletedCycles := by
  intro i s t h hnone
  obtain ⟨_, rfl⟩ := exec_completed h hnone
  have hdt : CountsDown (writesOf i s).dt ((writesOf i s).endCycle (nextPcOf i s)).dt := tickDown_toNat _
  rw [State.endCycle_st]
  refine ⟨fun hi => writesOf_dt hi s ▸ hdt, ?_, fun hi => writesOf_st hi s, ?_⟩
  · rintro x rfl
    exact hdt
  · rintro x rfl
    exact State.setSt_st s (s.reg x)

/-- Settles O14: a fault leaves every store, a completed cycle those its instruction does not write. -/
theorem onlyListedInstructionsReachAStore : Obligations.OnlyListedInstructionsReachAStore := by
  intro i s t h
  rcases exec_next_cases h with ⟨f, _, rfl⟩ | ⟨_, rfl⟩
  · exact ⟨fun _ a => congrArg (Memory.read · a) (s.halt_mem f),
      fun _ x y => congrArg (Framebuffer.pixel · x y) (s.halt_fb f),
      fun _ => s.halt_stack f, fun _ => s.halt_i f, fun _ => s.halt_draws f⟩
  · rw [SameMemory, SameScreen, State.endCycle_mem, State.endCycle_fb, State.endCycle_stack, State.endCycle_i,
      State.endCycle_draws]
    exact ⟨fun hi a => congrArg (Memory.read · a) (writesOf_mem hi s),
      fun hi x y => congrArg (Framebuffer.pixel · x y) (writesOf_fb hi s),
      fun hi => writesOf_stack hi s, fun hi => writesOf_i hi s, fun hi => writesOf_draws hi s⟩

/-- Settles O15: a fault leaves every register, a completed cycle those its instruction does not write. -/
theorem registerFrameOfEveryInstruction : Obligations.RegisterFrameOfEveryInstruction := by
  intro i s t h
  rcases exec_next_cases h with ⟨f, _, rfl⟩ | ⟨_, rfl⟩
  · exact ⟨fun r _ _ => s.halt_reg f r, fun hnone => nomatch hnone⟩
  · simp only [State.endCycle_reg]
    exact ⟨fun r hr hvf => writesOf_reg hr hvf s, fun _ hflag hvf => writesOf_vf hflag hvf s⟩

end Sys2Proof.Machine
end

section
/-! PROOFS. The step (45_cycle_driver_and_host.md rules R220, R221, 60_exceptions.md): which instruction it runs, how it
ends, the faults it raises, and the state it does not read. -/

namespace Sys2Proof.Machine

/-! ## What a step runs -/

/-- FETCH raises before any byte is read (rule R261). -/
theorem step_eq_raise_fetch {s : State} (hinit : s.initialised = true) (hpc : 0xFFF ≤ s.pc.toNat) :
    step s = raise (.pcOutOfBounds s.pc) s := by
  rcases step_cases s with ⟨hno, _⟩ | ⟨_, _, h⟩ | ⟨_, hin, _⟩ | ⟨_, hin, _⟩
  · simp [hinit] at hno
  · exact h
  all_goals omega

/-- DECODE raises with the word it was given (rule R262). -/
theorem step_eq_raise_decode {s : State} (hinit : s.initialised = true) (hpc : s.pc.toNat < 0xFFF)
    (hdec : decodeWord s.wordAtPc = none) : step s = raise (.unknownOpcode s.wordAtPc s.pc) s := by
  rcases step_cases s with ⟨hno, _⟩ | ⟨_, hout, _⟩ | ⟨_, _, _, h⟩ | ⟨_, _, j, hj, _⟩
  · simp [hinit] at hno
  · omega
  · exact h
  · simp [hdec] at hj

/-- A step whose `PC` is in range and whose word decodes is the instruction (rule R221). -/
theorem step_eq_exec {s : State} {i : Instr} (hinit : s.initialised = true) (hpc : s.pc.toNat < 0xFFF)
    (hdec : decodeWord s.wordAtPc = some i) : step s = exec i s := by
  rcases step_cases s with ⟨hno, _⟩ | ⟨_, hout, _⟩ | ⟨_, _, hnone, _⟩ | ⟨_, _, j, hj, h⟩
  · simp [hinit] at hno
  · omega
  · simp [hdec] at hnone
  · rw [hdec] at hj
    cases hj
    exact h

/-- Settles O7: FETCH and DECODE pass, and nothing is added around the instruction (rule R221). -/
theorem stepRunsDecodedInstruction : Obligations.StepRunsDecodedInstruction :=
  fun _ _ hinit hpc hdec => step_eq_exec hinit hpc hdec

/-- Settles O10: before the first `Initialize` a cycle has no meaning (10_state.md rule R39). -/
theorem uninitialisedCycleIsRefused : Obligations.UninitialisedCycleIsRefused := by
  intro s hno
  rcases step_cases s with ⟨_, h⟩ | ⟨hinit, _⟩ | ⟨hinit, _⟩ | ⟨hinit, _⟩
  · exact h
  all_goals simp [hno] at hinit

/-- Settles O46: the fault of FETCH is taken on the state as it stands (60_exceptions.md rule R266). -/
theorem pcOutOfBoundsHalts : Obligations.PcOutOfBoundsHalts :=
  fun s hinit hpc => ⟨_, step_eq_raise_fetch hinit hpc, s.halt_haltedBy _⟩

/-- Settles O47: so is the fault of DECODE, with `PC` at the word. -/
theorem unknownOpcodeHalts : Obligations.UnknownOpcodeHalts :=
  fun s hinit hpc hdec => ⟨_, step_eq_raise_decode hinit hpc hdec, s.halt_haltedBy _⟩

/-! ## A stored word (20_memory.md rule R62) -/

/-- The two bytes put at an address are read there. -/
theorem State.putPair_read (s : State) (a : Nat) (hi lo : Byte) :
    (s.putPair a hi lo).mem.read a = hi ∧ (s.putPair a hi lo).mem.read (a + 1) = lo := by
  rw [State.putPair, State.setMem_mem]
  exact ⟨by rw [Memory.read_write_ne _ _ (by omega), Memory.read_write_self], Memory.read_write_self _ _ _⟩

/-- They are the only bytes that change. -/
theorem State.putPair_sameMemoryOutside (s : State) (a : Nat) (hi lo : Byte) :
    SameMemoryOutside a 2 s (s.putPair a hi lo) := by
  intro b hb
  rw [State.putPair, State.setMem_mem, Memory.read_write_ne _ _ (by omega), Memory.read_write_ne _ _ (by omega)]

theorem State.wordAtPc_withFetchWord (s : State) (nbits w : Nat) :
    (s.withFetchWord nbits w).wordAtPc = tableWord nbits w := by
  obtain ⟨hhi, hlo⟩ := s.putPair_read s.pc.toNat (highByte (tableWord nbits w)) (lowByte (tableWord nbits w))
  exact (congrArg₂ wordOfBytes hhi hlo).trans (wordOfBytes_split _)

/-- Decoding a table word from its bytes is decoding the word. -/
theorem decodeTableWord_eq (nbits w : Nat) : decodeTableWord nbits w = decodeWord (tableWord nbits w) := by
  rw [decodeTableWord, decodeBytes, wordOfBytes_split]
  cases decodeWord (tableWord nbits w) <;> rfl

/-- Settles O8: the fetch reads the two bytes just stored, big-endian (20_memory.md rules R52, R62). -/
theorem storedInstructionIsFetchedNext : Obligations.StoredInstructionIsFetchedNext := by
  intro s w i hinit hpc hdec
  have hword : decodeWord (s.withFetchWord 16 w).wordAtPc = some i := by
    rw [State.wordAtPc_withFetchWord, ← decodeTableWord_eq, hdec]
  exact ⟨step_eq_exec hinit hpc hword, s.putPair_sameMemoryOutside _ _ _⟩

/-! ## How a step ends -/

/-- Settles O9: the cycle ends in its notify phase, or on its fault (60_exceptions.md rule R271). -/
theorem everyCycleCompletesOrFaults : Obligations.EveryCycleCompletesOrFaults := by
  intro s hinit
  rcases step_endsCycle hinit with ⟨a, u, h, hend⟩ | ⟨f, h⟩
  · exact ⟨_, h, .inl ⟨u.endCycle_lastFault a, hend, rfl⟩⟩
  · exact ⟨_, h, .inr ⟨f, rfl, s.halt_haltedBy f⟩⟩

/-- A step that raised a fault left its halted state. -/
theorem halted_of_step {s t : State} {f : Fault} (h : step s = .next t) (hf : t.lastFault = some f) :
    t = s.halt f := by
  rcases completed_or_halted_of_step h with ⟨hnone, _⟩ | ⟨f', rfl⟩
  · rw [hnone] at hf
    cases hf
  · cases hf
    rfl

/-- Settles O49: the halted state is the cycle's own but for the run state (rules R266, R267). -/
theorem faultChangesOnlyRunState : Obligations.FaultChangesOnlyRunState := by
  intro s t f h hf
  obtain rfl := halted_of_step h hf
  exact ⟨s.halt_haltedBy f, s.halt_halted f⟩

/-- Settles O48: FETCH, DECODE and EXECUTE each raise their own faults, in that order (rule R269). -/
theorem faultsHaveOnlyTheirCauses : Obligations.FaultsHaveOnlyTheirCauses := by
  intro s t f h hf
  rcases step_cases s with ⟨_, hs⟩ | ⟨_, hout, hs⟩ | ⟨_, hpc, hdec, hs⟩ | ⟨_, hpc, i, hdec, hs⟩
  · simp [hs] at h
  · obtain rfl := (raise_next _ _ _).mp (hs.symm.trans h)
    cases hf
    exact .inl ⟨_, rfl, rfl, hout⟩
  · obtain rfl := (raise_next _ _ _).mp (hs.symm.trans h)
    cases hf
    exact .inr (.inl ⟨_, _, rfl, rfl, hpc, rfl, hdec⟩)
  · rcases cause_of_faultOf (exec_faulted (hs.symm.trans h) hf) with ⟨rfl, rfl, hstack⟩ | ⟨rfl, hn, hout⟩
    · exact .inr (.inr (.inl ⟨_, rfl, rfl, hpc, hdec, hstack⟩))
    · have hrange : 0xFFF < s.i.toNat + (i.accessLength - 1) := by
        simp only [Config.memSize, State.base] at hout
        omega
      exact .inr (.inr (.inr ⟨_, _, i, rfl, rfl, hpc, hdec, hn, hrange, rfl⟩))

/-! ## What a step does not read (10_state.md rule R28, 45_cycle_driver_and_host.md rule R233) -/

/-- `s` with other values of `RUN`, `HALT_CAUSE` and `ST`. -/
def State.withUnread (s : State) (r : RunState) (c : HaltCause) (b : Byte) : State :=
  { s with run := r, haltCause := c, st := b }

/-- A fault sets two of the three itself. -/
theorem State.halt_withUnread (s : State) (r : RunState) (c : HaltCause) (b : Byte) (f : Fault) :
    (s.withUnread r c b).halt f = (s.halt f).setSt b := rfl

/-- Registers are loaded from memory alone. -/
theorem State.loadRegs_withUnread (m : Memory) (base : Nat) (rs : List RegIdx) (s : State) (r : RunState)
    (c : HaltCause) (b : Byte) :
    State.loadRegs m base rs (s.withUnread r c b) = (State.loadRegs m base rs s).withUnread r c b := by
  induction rs generalizing s with
  | nil => rfl
  | cons q rs ih => exact ih (s.setReg q (m.read (base + q.val)))

theorem faultOf_withUnread (i : Instr) (s : State) (r : RunState) (c : HaltCause) (b : Byte) :
    faultOf i (s.withUnread r c b) = faultOf i s := rfl

theorem nextPcOf_withUnread (i : Instr) (s : State) (r : RunState) (c : HaltCause) (b : Byte) :
    nextPcOf i (s.withUnread r c b) = nextPcOf i s := rfl

/-- An instruction writes the same whatever the three are; LD ST,VX alone overwrites one of them. -/
theorem writesOf_withUnread (i : Instr) (s : State) (r : RunState) (c : HaltCause) (b : Byte) :
    writesOf i (s.withUnread r c b) =
      (writesOf i s).withUnread r c (if i.writesSound then (writesOf i s).st else b) := by
  cases i with
  | ldVxMem x =>
    show (s.withUnread r c b).setV (State.loadRegs s.mem s.base (regsUpTo x) (s.withUnread r c b)).v = _
    rw [State.loadRegs_withUnread]
    rfl
  | _ => rfl

/-- The end of a cycle keeps the three, at the default of D17. -/
theorem State.endCycle_withUnread (s : State) (r : RunState) (c : HaltCause) (b : Byte) (a : Word) :
    (s.withUnread r c b).endCycle a = (s.endCycle a).withUnread r c b := rfl

/-- A step goes the same way whatever the three are: it takes the same fault, or runs the same instruction, which
leaves the three as they are but for LD ST,VX. -/
theorem step_withUnread {s t : State} (h : step s = .next t) (r : RunState) (c : HaltCause) (b : Byte) :
    (∃ f, t = s.halt f ∧ step (s.withUnread r c b) = .next ((s.halt f).setSt b)) ∨
      ∃ i, t = (writesOf i s).endCycle (nextPcOf i s) ∧
        step (s.withUnread r c b) = .next (t.withUnread r c (if i.writesSound then t.st else b)) := by
  rcases step_cases s with ⟨_, hs⟩ | ⟨hinit, hpc, hs⟩ | ⟨hinit, hpc, hdec, hs⟩ | ⟨hinit, hpc, i, hdec, hs⟩
  · simp [hs] at h
  · refine .inl ⟨_, ((raise_next _ _ _).mp (hs.symm.trans h)).symm, ?_⟩
    rw [← State.halt_withUnread s r c b]
    exact step_eq_raise_fetch hinit hpc
  · refine .inl ⟨_, ((raise_next _ _ _).mp (hs.symm.trans h)).symm, ?_⟩
    rw [← State.halt_withUnread s r c b]
    exact step_eq_raise_decode hinit hpc hdec
  · have hs' : step (s.withUnread r c b) = exec i (s.withUnread r c b) := step_eq_exec hinit hpc hdec
    rcases exec_next_cases (hs.symm.trans h) with ⟨f, hf, ht⟩ | ⟨hf, ht⟩
    · refine .inl ⟨f, ht, ?_⟩
      rw [hs', ← State.halt_withUnread s r c b]
      exact exec_halt ((faultOf_withUnread i s r c b).trans hf)
    · refine .inr ⟨i, ht, ?_⟩
      rw [hs', ht, State.endCycle_st, ← State.endCycle_withUnread, ← writesOf_withUnread,
        ← nextPcOf_withUnread i s r c b]
      exact exec_complete ((faultOf_withUnread i s r c b).trans hf)

/-- Putting back what was replaced gives the state. -/
theorem State.withUnread_back (s : State) (r : RunState) (c : HaltCause) :
    ((s.withUnread r c s.st).setRun s.run).setHaltCause s.haltCause = s := rfl

theorem State.setSt_back (s : State) : ((s.setSt s.st).setRun s.run).setHaltCause s.haltCause = s := rfl

/-- Replacing the run state by the same leaves only the sound timer replaced. -/
theorem State.withUnread_sameRun {s u : State} (hrun : u.run = s.run) (hcause : u.haltCause = s.haltCause) (b : Byte) :
    u.withUnread s.run s.haltCause b = u.setSt b := by
  rw [← hrun, ← hcause]
  rfl

/-- Settles O16: the two states take the same way, and its end keeps both fields or sets both (rule R233). -/
theorem stepIgnoresRunState : Obligations.StepIgnoresRunState := by
  intro s t r c h
  have hs : s.withUnread r c s.st = (s.setRun r).setHaltCause c := rfl
  rw [← hs]
  rcases step_withUnread h r c s.st with ⟨f, rfl, hu⟩ | ⟨i, rfl, hu⟩
  · exact ⟨_, hu, (s.halt f).setSt_back⟩
  · have hst : (if i.writesSound then (writesOf i s).st else s.st) = (writesOf i s).st := by
      split
      · rfl
      · next hno => exact (writesOf_st (Bool.eq_false_iff.mpr hno) s).symm
    rw [State.endCycle_st, hst, ← State.endCycle_st _ (nextPcOf i s)] at hu
    exact ⟨_, hu, State.withUnread_back _ r c⟩

/-- Settles O17: the two states take the same way, and only LD ST,VX makes their sound timers equal (rule R206). -/
theorem soundTimerIsUnobserved : Obligations.SoundTimerIsUnobserved := by
  intro s t b h
  rw [← State.withUnread_sameRun rfl rfl]
  rcases step_withUnread h s.run s.haltCause b with ⟨f, rfl, hu⟩ | ⟨i, rfl, hu⟩
  · exact ⟨b, hu⟩
  · have hrun := (State.endCycle_run _ (nextPcOf i s)).trans (writesOf_run i s)
    have hcause := (State.endCycle_haltCause _ (nextPcOf i s)).trans (writesOf_haltCause i s)
    rw [State.withUnread_sameRun hrun hcause] at hu
    exact ⟨_, hu⟩

end Sys2Proof.Machine
end

section
/-! PROOFS. The invariant (10_state.md rules R25, R33, R34): clause by clause over the writes of an instruction, then over
every step, transition and schedule. -/

namespace Sys2Proof.Machine

/-! ## The clauses over one instruction -/

/-- A sum of words is at most the sum of the numbers. -/
theorem toNat_add_le (a b : Word) : (a + b).toNat ≤ a.toNat + b.toNat := by
  rw [BitVec.toNat_add]
  exact Nat.mod_le _ _

/-- The largest target is that of JP V0,NNN, `0xFF + 0xFFF` (rule R25). -/
theorem nextPcOf_le (i : Instr) {s : State} (hpc : s.pc.toNat < 0xFFF) (hstack : ∀ a ∈ s.stack, a.toNat ≤ 0x1000) :
    (nextPcOf i s).toNat ≤ 0x10FE := by
  have h2 : (s.pc + 2).toNat ≤ s.pc.toNat + 2 := toNat_add_le _ _
  have h4 : (s.pc + 4).toNat ≤ s.pc.toNat + 4 := toNat_add_le _ _
  cases i with
  | ret =>
    cases hs : s.stack with
    | nil => simp only [nextPcOf, hs, List.headD_nil]; omega
    | cons a rest =>
      have ha := hstack a (by simp [hs])
      simp only [nextPcOf, hs, List.headD_cons]
      omega
  | jpNnn nnn | callNnn nnn =>
    have hnnn : (addrWord nnn).toNat = nnn.toNat := addrWord_toNat nnn
    have hlt : nnn.toNat < 4096 := nnn.isLt
    show (addrWord nnn).toNat ≤ 0x10FE
    omega
  | jpV0Nnn nnn =>
    have hsum : (offsetTarget s nnn).toNat ≤ (s.reg 0).toWord.toNat + (addrWord nnn).toNat := toNat_add_le _ _
    have hlt : nnn.toNat < 4096 := nnn.isLt
    have hlt0 : (s.reg 0).toNat < 256 := (s.reg 0).isLt
    rw [toWord_toNat, addrWord_toNat] at hsum
    show (offsetTarget s nnn).toNat ≤ 0x10FE
    omega
  | seVxKk | sneVxKk | seVxVy | sneVxVy | skpVx | sknpVx | ldVxK =>
    rw [nextPcOf]
    split <;> omega
  | _ =>
    show (s.pc + 2).toNat ≤ 0x10FE
    omega

/-- CALL pushes at most `0xFFE + 2`; RET only takes away. -/
theorem writesOf_stack_le (i : Instr) {s : State} (hpc : s.pc.toNat < 0xFFF)
    (hstack : ∀ a ∈ s.stack, a.toNat ≤ 0x1000) : ∀ a ∈ (writesOf i s).stack, a.toNat ≤ 0x1000 := by
  cases i with
  | callNnn nnn =>
    have h2 : (s.pc + 2).toNat ≤ s.pc.toNat + 2 := toNat_add_le _ _
    exact List.forall_mem_cons.mpr ⟨by omega, hstack⟩
  | ret => exact fun a ha => hstack a (List.mem_of_mem_tail ha)
  | _ => exact hstack

/-- An instruction that raises nothing has all its accesses in range. -/
theorem inside_of_faultOf {i : Instr} {s : State} (h : faultOf i s = none) :
    i.accessLength = 0 ∨ s.base + i.accessLength ≤ Config.memSize := by
  rcases firstOutside_cases s.base i.accessLength with ⟨_, hin⟩ | ⟨_, hn, hout⟩
  · exact hin
  · rw [faultOf_outside hn hout] at h
    cases h

/-- What the guard lets through keeps the canonical form. -/
theorem writesOf_mem_wf {i : Instr} {s : State} (hf : faultOf i s = none) (hmem : s.mem.wf = true) :
    (writesOf i s).mem.wf = true := by
  have hin := inside_of_faultOf hf
  cases i with
  | ldBVx x =>
    have hlen : s.base + 3 ≤ Config.memSize := hin.resolve_left (by simp [Instr.accessLength])
    exact Memory.wf_writeBytes hmem (by rw [bcdDigits_length]; exact hlen)
  | ldMemVx x =>
    have hlen : s.base + (x.val + 1) ≤ Config.memSize := hin.resolve_left (by simp [Instr.accessLength])
    exact Memory.wf_writeBytes hmem (by rw [State.dumpBytes_length]; exact hlen)
  | _ => exact hmem

/-! ## Steps -/

/-- The end of a cycle reads of the invariant only the next `PC`. -/
theorem State.inv_endCycle {u : State} {a : Word} (hmem : u.mem.wf = true) (ha : a.toNat ≤ 0x10FE)
    (hstack : ∀ b ∈ u.stack, b.toNat ≤ 0x1000) (hrun : u.run = .running → u.haltCause = .none)
    (hclock : 0 < u.clockHz) : (u.endCycle a).Inv :=
  ⟨hmem, ha, hstack, hrun, hclock⟩

/-- A fault keeps the invariant: it pauses, and changes nothing the invariant bounds. -/
theorem State.Inv.halt {s : State} (h : s.Inv) (f : Fault) : (s.halt f).Inv := by
  obtain ⟨hmem, hpc, hstack, _, hclock⟩ := h
  exact ⟨hmem, hpc, hstack, fun hrun => by simp at hrun, hclock⟩

/-- So does an instruction fetched from an address in range. -/
theorem exec_keeps_inv {i : Instr} {s t : State} (h : s.Inv) (hpc : s.pc.toNat < 0xFFF) (he : exec i s = .next t) :
    t.Inv := by
  rcases exec_next_cases he with ⟨f, _, rfl⟩ | ⟨hf, rfl⟩
  · exact h.halt f
  · obtain ⟨hmem, _, hstack, hrun, hclock⟩ := h
    refine State.inv_endCycle (writesOf_mem_wf hf hmem) (nextPcOf_le i hpc hstack) (writesOf_stack_le i hpc hstack)
      ?_ ?_
    · rw [writesOf_run, writesOf_haltCause]
      exact hrun
    · rw [writesOf_clockHz]
      exact hclock

/-- Settles O57: a fault keeps the invariant, and an instruction runs only where `PC` is in range (rule R25). -/
theorem stepKeepsInvariant : Obligations.StepKeepsInvariant := by
  intro s t h hst
  rcases step_cases s with ⟨_, hs⟩ | ⟨_, _, hs⟩ | ⟨_, _, _, hs⟩ | ⟨_, hpc, i, _, hs⟩
  · simp [hs] at hst
  · exact (raise_next _ _ _).mp (hs.symm.trans hst) ▸ h.halt _
  · exact (raise_next _ _ _).mp (hs.symm.trans hst) ▸ h.halt _
  · exact exec_keeps_inv h hpc (hs.symm.trans hst)

/-! ## Reset and host commands -/

theorem State.reset_pc_le : State.reset.pc.toNat ≤ 0x10FE := by decide

/-- Settles O56: canonical memory, an empty stack, a paused machine, a positive frequency. -/
theorem resetMeetsInvariant : Obligations.ResetMeetsInvariant :=
  ⟨State.reset_mem_wf, State.reset_pc_le, fun _ ha => absurd ha List.not_mem_nil, fun _ => rfl, zero_lt_one⟩

/-- `Initialize` needs of the old state only its frequency. -/
theorem State.Inv.initialise {s : State} (h : s.Inv) : s.initialise.Inv := by
  obtain ⟨_, _, _, _, hclock⟩ := h
  exact ⟨State.reset_mem_wf, State.reset_pc_le, fun _ ha => absurd ha List.not_mem_nil, fun _ => rfl, hclock⟩

/-- Pausing keeps the invariant. -/
theorem State.Inv.pause {s : State} (h : s.Inv) : s.pause.Inv := by
  obtain ⟨hmem, hpc, hstack, _, hclock⟩ := h
  exact ⟨hmem, hpc, hstack, fun hrun => by simp at hrun, hclock⟩

/-- Starting clears the halt cause. -/
theorem State.Inv.start {s : State} (h : s.Inv) : s.start.Inv := by
  obtain ⟨hmem, hpc, hstack, _, hclock⟩ := h
  exact ⟨hmem, hpc, hstack, fun _ => rfl, hclock⟩

/-- Replacing memory by another in canonical form keeps the invariant. -/
theorem State.Inv.setMem {s : State} (h : s.Inv) {m : Memory} (hm : m.wf = true) : (s.setMem m).Inv := by
  obtain ⟨_, hpc, hstack, hrun, hclock⟩ := h
  exact ⟨hm, hpc, hstack, hrun, hclock⟩

/-- `loadRom` writes no byte past the end of memory (20_memory.md rule R51). -/
theorem State.Inv.loadRom {s : State} (h : s.Inv) (bytes : List Byte) : (s.loadRom bytes).Inv := by
  have ⟨hmem, _⟩ := h
  have hbytes {ws : List Byte} (hlen : ws.length ≤ 3584) : (s.setMem (s.mem.writeBytes 0x200 ws)).Inv :=
    h.setMem (Memory.wf_writeBytes hmem (by simp only [Config.memSize]; omega))
  rw [State.loadRom]
  rcases s.loadRomWith_cases Config.romOverflowPolicy bytes with ⟨hlen, e⟩ | ⟨_, _, e⟩ | ⟨_, _, e⟩
  · rw [e]
    exact hbytes hlen
  · rw [e]
    exact hbytes (by rw [List.length_take]; omega)
  · rw [e]
    exact h

theorem State.Inv.setClockFrequency {s : State} (h : s.Inv) (hz : Rat) : (s.setClockFrequency hz).Inv := by
  rcases lt_or_ge 0 hz with hpos | hnonpos
  · obtain ⟨hmem, hpc, hstack, hrun, _⟩ := h
    rw [State.setClockFrequency_of_pos hpos]
    exact ⟨hmem, hpc, hstack, hrun, hpos⟩
  · rw [State.setClockFrequency_of_nonpos hnonpos]
    exact h

/-- Every host command keeps the invariant; `step` is the step, and the key commands write the latch alone. -/
theorem perform_keeps_inv {c : Command} {s t : State} (h : s.Inv) (hp : perform c s = .next t) : t.Inv := by
  cases c with
  | step => exact stepKeepsInvariant s t h hp
  | initialise => cases hp; exact h.initialise
  | loadRom bytes => cases hp; exact h.loadRom bytes
  | start => cases hp; exact h.start
  | pause => cases hp; exact h.pause
  | setKey code => cases hp; exact h
  | setKeyPressed b => cases hp; exact h
  | setClockFrequency hz => cases hp; exact h.setClockFrequency hz

/-- So does every transition: the core's own is a step or nothing. -/
theorem transition_keeps_inv {e : Event} {s t : State} (h : s.Inv) (he : transition e s = .next t) : t.Inv := by
  cases e with
  | tick =>
    cases hr : s.run with
    | running =>
      simp only [transition, tick, hr] at he
      exact stepKeepsInvariant s t h he
    | paused =>
      simp only [transition, tick, hr] at he
      cases he
      exact h
  | command c => exact perform_keeps_inv h he
  | hardwareReset =>
    cases he
    exact h.initialise.pause

/-- Settles O58: by induction on the schedule, each event keeps the invariant (00_scope.md rule R10). -/
theorem scheduleKeepsInvariant : Obligations.ScheduleKeepsInvariant := by
  intro es
  induction es with
  | nil =>
    intro s t h hs
    cases hs
    exact h
  | cons e es ih =>
    intro s t h hs
    rw [runSchedule] at hs
    cases he : transition e s with
    | next u =>
      rw [he] at hs
      exact ih u t (transition_keeps_inv h he) hs
    | fault f => simp [he] at hs
    | refused r => simp [he] at hs

end Sys2Proof.Machine
end

section
/-! PROOFS. Memory as data (20_memory.md): a memory in canonical form holds nothing beyond its bytes. -/

namespace Sys2Proof.Machine

/-- What the canonical form says of its first cell. -/
theorem Memory.wfFrom_cons {lo a : Nat} {w : Byte} {rest : Memory} (h : Memory.wfFrom lo ((a, w) :: rest) = true) :
    lo ≤ a ∧ w ≠ Memory.resetByte a ∧ Memory.wfFrom (a + 1) rest = true := by
  simp only [Memory.wfFrom, Bool.and_eq_true, decide_eq_true_eq] at h
  obtain ⟨⟨⟨hlo, _⟩, hw⟩, hrest⟩ := h
  exact ⟨hlo, hw, hrest⟩

/-- The canonical form from any address up to the first cell. -/
theorem Memory.wfFrom_first {lo lo' a : Nat} {w : Byte} {rest : Memory}
    (h : Memory.wfFrom lo ((a, w) :: rest) = true) (ha : lo' ≤ a) : Memory.wfFrom lo' ((a, w) :: rest) = true := by
  simp only [Memory.wfFrom, Bool.and_eq_true, decide_eq_true_eq] at h ⊢
  obtain ⟨⟨⟨_, hsize⟩, hw⟩, hrest⟩ := h
  exact ⟨⟨⟨ha, hsize⟩, hw⟩, hrest⟩

/-- Below its first cell a memory reads as `Initialize` left it. -/
theorem Memory.read_below {lo a : Nat} {m : Memory} (h : Memory.wfFrom lo m = true) (ha : a < lo) :
    m.read a = Memory.resetByte a := by
  induction m generalizing lo with
  | nil => rfl
  | cons c rest ih =>
    obtain ⟨b, w⟩ := c
    obtain ⟨hlo, _, hrest⟩ := Memory.wfFrom_cons h
    rw [Memory.read, if_neg (by omega), ih hrest (by omega)]

/-- A read at the first cell gives its byte. -/
theorem Memory.read_cons_self (a : Nat) (w : Byte) (rest : Memory) : Memory.read ((a, w) :: rest) a = w :=
  if_pos rfl

/-- A read elsewhere goes on. -/
theorem Memory.read_cons_ne {a b : Nat} (w : Byte) (rest : Memory) (h : a ≠ b) :
    Memory.read ((a, w) :: rest) b = rest.read b :=
  if_neg h

/-- A cell that lies below the other memory is seen by a read: its byte is not the one left by `Initialize`. -/
theorem Memory.read_ne_of_below {lo a : Nat} {w : Byte} {rest m : Memory}
    (h : Memory.wfFrom lo ((a, w) :: rest) = true) (hm : Memory.wfFrom (a + 1) m = true) :
    Memory.read ((a, w) :: rest) a ≠ m.read a := by
  obtain ⟨_, hw, _⟩ := Memory.wfFrom_cons h
  rw [Memory.read_cons_self, Memory.read_below hm (by omega)]
  exact hw

/-- Cell by cell: two memories that read the same have the same first address, the same byte there, and rests that read
the same. -/
theorem Memory.eq_of_read_eq {lo lo' : Nat} {m m' : Memory} (h : Memory.wfFrom lo m = true)
    (h' : Memory.wfFrom lo' m' = true) (hread : ∀ a, m.read a = m'.read a) : m = m' := by
  induction m generalizing lo lo' m' with
  | nil =>
    cases m' with
    | nil => rfl
    | cons c' rest' => exact absurd (hread c'.1).symm (Memory.read_ne_of_below h' rfl)
  | cons c rest ih =>
    obtain ⟨a, w⟩ := c
    cases m' with
    | nil => exact absurd (hread a) (Memory.read_ne_of_below h rfl)
    | cons c' rest' =>
      obtain ⟨b, u⟩ := c'
      obtain ⟨_, _, hrest⟩ := Memory.wfFrom_cons h
      obtain ⟨_, _, hrest'⟩ := Memory.wfFrom_cons h'
      have hab : ¬ a < b := fun hlt => Memory.read_ne_of_below h (Memory.wfFrom_first h' hlt) (hread a)
      have hba : ¬ b < a := fun hlt => Memory.read_ne_of_below h' (Memory.wfFrom_first h hlt) (hread b).symm
      obtain rfl : a = b := by omega
      have hw : w = u := by
        have hhead := hread a
        rwa [Memory.read_cons_self, Memory.read_cons_self] at hhead
      have htail : ∀ d, Memory.read rest d = Memory.read rest' d := by
        intro d
        by_cases hd : a = d
        · rw [Memory.read_below hrest (by omega), Memory.read_below hrest' (by omega)]
        · have hnext := hread d
          rwa [Memory.read_cons_ne _ _ hd, Memory.read_cons_ne _ _ hd] at hnext
      rw [hw, ih hrest hrest' htail]

/-- Settles O59: the canonical form from address 0 on. -/
theorem memoryIsItsReads : Obligations.MemoryIsItsReads :=
  fun _ _ h h' hread => Memory.eq_of_read_eq h h' hread

end Sys2Proof.Machine
end

section
/-! PROOFS. Reset and host commands (70_reset_and_hazards.md, 45_cycle_driver_and_host.md): the state after reset, what
`loadRom` writes, and the run-state machine. -/

namespace Sys2Proof.Machine

/-! ## Reset (10_state.md rule R38) -/

/-- The font region holds the font, every other byte is 0. -/
theorem Memory.resetByte_font {k : Nat} (h : k < 80) : Memory.resetByte (0x050 + k) = font.getD k 0 := by
  have hin : Config.fontBase ≤ 0x050 + k ∧ 0x050 + k ≤ Config.fontEnd := by
    simp only [Config.fontBase, Config.fontEnd]
    omega
  rw [Memory.resetByte, if_pos hin, Config.fontBase, Nat.add_sub_cancel_left]

theorem Memory.resetByte_outside {a : Nat} (h : a < 0x050 ∨ 0x09F < a) : Memory.resetByte a = 0 := by
  have hout : ¬ (Config.fontBase ≤ a ∧ a ≤ Config.fontEnd) := by
    simp only [Config.fontBase, Config.fontEnd]
    omega
  rw [Memory.resetByte, if_neg hout]

theorem State.reset_reg (r : RegIdx) : State.reset.reg r = 0 :=
  Vector.getElem_replicate _

/-- Settles O50: each field of the reset state is as written, the screen is blank, and memory is the font and zeros. -/
theorem resetState : Obligations.ResetState :=
  ⟨State.reset_reg, rfl, rfl, rfl, rfl, rfl, Framebuffer.pixel_blank, rfl, rfl, rfl, rfl,
    fun _ hk => Memory.resetByte_font hk, fun _ ha => Memory.resetByte_outside ha⟩

/-- Settles O51: `Initialize` writes the reset values over every field but `RUN`, `CLOCK_HZ` and the draws (rule R300),
and the reset input is that and a pause (rule R302). -/
theorem initialiseFromAnyState : Obligations.InitialiseFromAnyState :=
  fun s => ⟨⟨s.initialise, rfl, rfl, rfl, rfl, rfl, rfl, rfl, rfl, rfl, rfl, rfl, rfl, rfl, rfl, rfl, rfl⟩,
    ⟨s.hardwareReset, rfl, rfl, rfl⟩⟩

/-! ## Commands (rules R226 to R237) -/

/-- Settles O55: each command is one write of its field (rules R236, R237). -/
theorem keyCommandResults : Obligations.KeyCommandResults :=
  fun code b s => ⟨⟨s.latchKey code, rfl, BitVec.toNat_ofNat code 8, rfl⟩, ⟨s.latchPressed b, rfl, rfl, rfl⟩⟩

/-- Settles O53: `start` and `pause` set the run state, a tick reads it (rule R228), and a step ends as its cycle does:
completed, which keeps it, or halted (60_exceptions.md rule R267). -/
theorem runStateMachine : Obligations.RunStateMachine := by
  intro s
  refine ⟨⟨s.start, rfl, rfl, rfl, rfl⟩, ⟨s.pause, rfl, rfl, rfl⟩, fun hrun => ?_, fun hrun => ?_, rfl,
    fun t h hnone => ?_, fun t f h hf => ?_⟩
  · simp [transition, tick, hrun]
  · simp [transition, tick, hrun]
  · rcases completed_or_halted_of_step h with ⟨_, _, _, hrun, hcause, _⟩ | ⟨f, rfl⟩
    · exact ⟨hrun, hcause⟩
    · cases hnone
  · obtain rfl := halted_of_step h hf
    exact ⟨s.halt_halted f, s.halt_haltCause f⟩

/-- Bytes written from `a` on, as a frame. -/
theorem State.setMem_writeBytes_sameOutside (s : State) (a : Nat) (ws : List Byte) {n : Nat} (hn : ws.length ≤ n) :
    SameMemoryOutside a n s (s.setMem (s.mem.writeBytes a ws)) := by
  intro b hb
  rw [State.setMem_mem, Memory.read_writeBytes_outside _ _ _ (by omega)]

/-- A ROM that fits is written whole, under either policy (rule R231). -/
theorem State.loadRomWith_fits (p : RomOverflowPolicy) {bytes : List Byte} (s : State) (h : bytes.length ≤ 3584) :
    s.loadRomWith p bytes = s.setMem (s.mem.writeBytes 0x200 bytes) := by
  rcases s.loadRomWith_cases p bytes with ⟨_, e⟩ | ⟨hover, _⟩ | ⟨hover, _⟩
  · exact e
  all_goals omega

/-- Of a larger one `truncate` writes what fits (rule R232). -/
theorem State.loadRomWith_truncate {bytes : List Byte} (s : State) (h : 3584 < bytes.length) :
    s.loadRomWith .truncate bytes = s.setMem (s.mem.writeBytes 0x200 (bytes.take 3584)) := by
  rcases s.loadRomWith_cases .truncate bytes with ⟨hfits, _⟩ | ⟨_, _, e⟩ | ⟨_, hp, _⟩
  · omega
  · exact e
  · cases hp

/-- `ignore` writes nothing of it (rule R232). -/
theorem State.loadRomWith_ignore {bytes : List Byte} (s : State) (h : 3584 < bytes.length) :
    s.loadRomWith .ignore bytes = s := by
  rcases s.loadRomWith_cases .ignore bytes with ⟨hfits, _⟩ | ⟨_, hp, _⟩ | ⟨_, _, e⟩
  · omega
  · cases hp
  · exact e

/-- Under either policy `loadRom` is one write of at most 3584 bytes. -/
theorem State.loadRomWith_eq_setMem (p : RomOverflowPolicy) (bytes : List Byte) (s : State) :
    ∃ ws : List Byte, ws.length ≤ 3584 ∧ s.loadRomWith p bytes = s.setMem (s.mem.writeBytes 0x200 ws) := by
  rcases s.loadRomWith_cases p bytes with ⟨h, e⟩ | ⟨_, _, e⟩ | ⟨_, _, e⟩
  · exact ⟨bytes, h, e⟩
  · exact ⟨bytes.take 3584, List.length_take_le _ _, e⟩
  · exact ⟨[], Nat.zero_le _, e⟩

/-- Settles O52: the bytes read back are those written (rules R231, R232), and a write of memory is undone by putting the
old memory back. -/
theorem loadRomWritesOnlyProgramBytes : Obligations.LoadRomWritesOnlyProgramBytes := by
  intro bytes s p
  obtain ⟨ws, hlen, hws⟩ := s.loadRomWith_eq_setMem p bytes
  refine ⟨fun hfits => ?_, fun hover => ⟨fun k hk hin => ?_, s.loadRomWith_ignore hover⟩, ?_, ?_, rfl⟩
  · rw [s.loadRomWith_fits p hfits]
    exact ⟨fun k hk => Memory.read_writeBytes_inside _ _ _ k hk, s.setMem_writeBytes_sameOutside _ _ le_rfl⟩
  · have htake : k < (bytes.take 3584).length := by
      rw [List.length_take]
      omega
    rw [s.loadRomWith_truncate hover, State.setMem_mem, Memory.read_writeBytes_inside _ _ _ k htake,
      List.getElem_take]
  · rw [hws]
    exact s.setMem_writeBytes_sameOutside _ _ hlen
  · rw [hws]
    rfl

end Sys2Proof.Machine
end

section
/-! PROOFS. Fairness (70_reset_and_hazards.md rule R316): between two cycles a running machine stays running, unless it
is paused or reset. -/

namespace Sys2Proof.Machine

/-- An event that performs no cycle and is neither a pause nor a reset input leaves a running machine running. -/
theorem running_of_transition {e : Event} {s : State} (hcycle : e.runsCycle s = false)
    (hpause : e ≠ .command .pause) (hreset : e ≠ .hardwareReset) (hrun : s.run = .running) :
    ∃ t, transition e s = .next t ∧ t.run = .running := by
  obtain ⟨t, ht, hkeep | ⟨_, hstart⟩ | ⟨hstop | hstop, _⟩⟩ := transition_of_not_runsCycle hcycle
  · exact ⟨t, ht, hkeep.trans hrun⟩
  · exact ⟨t, ht, hstart⟩
  · exact absurd hstop hpause
  · exact absurd hstop hreset

/-- As long as no cycle comes, a schedule without pause and reset input keeps a running machine running. -/
theorem Schedule.running_until_cycle {es : Schedule} {s t : State} {n : Nat}
    (hquiet : ∀ k, es k ≠ .command .pause ∧ es k ≠ .hardwareReset) (ht : es.outcomeAt s n = .next t)
    (hrun : t.run = .running) (d : Nat) (hno : ∀ k, n ≤ k → k < n + d → ¬ es.CycleAt s k) :
    ∃ u, es.outcomeAt s (n + d) = .next u ∧ u.run = .running := by
  induction d with
  | zero => exact ⟨t, ht, hrun⟩
  | succ d ih =>
    obtain ⟨u, hu, hurun⟩ := ih fun k hk hlt => hno k hk (by omega)
    have hcycle : (es (n + d)).runsCycle u = false :=
      Bool.eq_false_iff.mpr fun hc => hno (n + d) (by omega) (by omega) ⟨u, hu, hc⟩
    obtain ⟨hpause, hreset⟩ := hquiet (n + d)
    obtain ⟨v, hv, hvrun⟩ := running_of_transition hcycle hpause hreset hurun
    exact ⟨v, (es.outcomeAt_succ hu).trans hv, hvrun⟩

/-- A schedule on which some cycle comes after `n` has a first one. -/
theorem Schedule.exists_first_cycle {es : Schedule} {s : State} {n m : Nat} (hm : n ≤ m) (hc : es.CycleAt s m) :
    ∃ k, n ≤ k ∧ es.CycleAt s k ∧ ∀ j, n ≤ j → j < k → ¬ es.CycleAt s j := by
  classical
  have hex : ∃ k, n ≤ k ∧ es.CycleAt s k := ⟨m, hm, hc⟩
  obtain ⟨hk, hck⟩ := Nat.find_spec hex
  exact ⟨Nat.find hex, hk, hck, fun j hj hlt hcj => Nat.find_min hex hlt ⟨hj, hcj⟩⟩

/-- On a fair schedule without pause and reset input a running machine has a cycle to come. -/
theorem Schedule.Fair.exists_cycle {es : Schedule} {s t : State} {n : Nat} (hfair : es.Fair s)
    (hquiet : ∀ k, es k ≠ .command .pause ∧ es k ≠ .hardwareReset) (ht : es.outcomeAt s n = .next t)
    (hrun : t.run = .running) : ∃ m, n ≤ m ∧ es.CycleAt s m := by
  by_contra hnone
  have hno : ∀ k, n ≤ k → ¬ es.CycleAt s k := fun k hk hc => hnone ⟨k, hk, hc⟩
  obtain ⟨m, hm, hc | ⟨u, hu, hpaused⟩⟩ := hfair n t ht hrun
  · exact hno m hm hc
  · obtain ⟨v, hv, hvrun⟩ := es.running_until_cycle hquiet ht hrun (m - n) fun k hk _ => hno k hk
    rw [Nat.add_sub_cancel' hm, hu] at hv
    cases hv
    simp [hpaused] at hvrun

/-- Settles O60: a running machine's own tick is a cycle (rule R228), and up to the first cycle to come the machine runs. -/
theorem fairScheduleRunsAnotherCycle : Obligations.FairScheduleRunsAnotherCycle := by
  refine ⟨fun s n t ht hrun => ⟨n, le_rfl, .inl ⟨t, ht, decide_eq_true hrun⟩⟩, fun es s t n hfair hquiet ht hrun => ?_⟩
  obtain ⟨m', hm', hc'⟩ := hfair.exists_cycle hquiet ht hrun
  obtain ⟨m, hm, ⟨u, hu, hc⟩, hfirst⟩ := Schedule.exists_first_cycle hm' hc'
  obtain ⟨v, hv, hvrun⟩ := es.running_until_cycle hquiet ht hrun (m - n) fun k hk hlt => hfirst k hk (by omega)
  rw [Nat.add_sub_cancel' hm, hu] at hv
  cases hv
  exact ⟨m, u, hm, hu, hvrun, hc, hfirst⟩

end Sys2Proof.Machine
end

section
/-! PROOFS. Jumps, calls and returns (40_flow_control.md): their targets, the bounded stack, and a call that comes
back. -/

namespace Sys2Proof.Machine

/-- The target of JP V0,NNN is the sum of the numbers: it never wraps (rule R118). -/
theorem offsetTarget_toNat (s : State) (nnn : BitVec 12) :
    (offsetTarget s nnn).toNat = (s.reg 0).toNat + nnn.toNat := by
  have hbyte : (s.reg 0).toNat < 256 := (s.reg 0).isLt
  have haddr : nnn.toNat < 4096 := nnn.isLt
  rw [offsetTarget, BitVec.toNat_add, toWord_toNat, addrWord_toNat]
  omega

/-- Settles O18: both jumps complete at their target and write nothing (rules R111, R118). -/
theorem jumpResults : Obligations.JumpResults :=
  fun nnn s => ⟨⟨_, rfl, addrWord_toNat nnn, s.endCycle_writesOnlyRegs _⟩,
    ⟨_, rfl, offsetTarget_toNat s nnn, s.endCycle_writesOnlyRegs _⟩⟩

/-- Settles O20: at the default depth a call is a push and a jump (rule R112). -/
theorem callResult : Obligations.CallResult :=
  fun nnn s => ⟨_, execCallNnn_eq nnn s, addrWord_toNat nnn, State.endCycle_writesOnlyRegs _ _⟩

/-- A return on a stack that is not empty pops the newest address into `PC` (rule R110). -/
theorem exec_ret {s : State} {a : Word} {rest : List Word} (h : s.stack = a :: rest) :
    exec .ret s = .next ((s.setStack rest).endCycle a) := by
  rcases execRet_cases s with ⟨hempty, _⟩ | ⟨b, rest', hs, he⟩
  · simp [h] at hempty
  · rw [h] at hs
    cases hs
    exact he

/-- Settles O21: the address popped is the next `PC`, and nothing but the stack is written. -/
theorem returnResult : Obligations.ReturnResult :=
  fun _ _ _ h => ⟨_, exec_ret h, rfl, State.endCycle_writesOnlyRegs _ _⟩

/-- Settles O22: RET on the empty stack raises (60_exceptions.md rule R263). -/
theorem returnOnEmptyStackHalts : Obligations.ReturnOnEmptyStackHalts :=
  fun s h => ⟨_, exec_halt (faultOf_ret_empty h), s.halt_haltedBy _⟩

/-- Settles O24: the push fails exactly on a full stack (10_state.md rule R27). -/
theorem boundedStackOverflows : Obligations.BoundedStackOverflows := by
  intro d nnn s
  refine ⟨fun hfull => ?_, fun hroom => ?_⟩
  · have hcall : callWith (some d) nnn s = raise (.stackOverflow s.pc) s := by
      rw [callWith, State.push?_bounded, if_pos hfull]
    exact ⟨_, hcall, s.halt_haltedBy _⟩
  · have hcall : callWith (some d) nnn s = complete (addrWord nnn) (s.setStack ((s.pc + 2) :: s.stack)) := by
      rw [callWith, State.push?_bounded, if_neg hroom]
    exact ⟨_, hcall, addrWord_toNat nnn, rfl, rfl⟩

/-- Settles O23: the call leaves memory and registers as they were and `PC` at the target, so the step there is the RET,
which pops what the call pushed (rule R112). -/
theorem callThenReturnComesBack : Obligations.CallThenReturnComesBack := by
  intro nnn s t hinit hpc hcall htarget hret hst
  rw [step_eq_exec hinit hpc hcall] at hst
  obtain ⟨t', ht', htpc, htregs, htmem, _, ⟨_, htstack, _⟩, _, _, _, _, _, _, htinit⟩ := callResult nnn s
  cases ht'.symm.trans hst
  have hword : t.wordAtPc = wordOfBytes (s.mem.read nnn.toNat) (s.mem.read (nnn.toNat + 1)) := by
    rw [State.wordAtPc, htpc, htmem, htmem, State.setStack_mem]
  obtain ⟨u, hu, hupc, huregs, _, _, ⟨_, hustack, _⟩, _⟩ := returnResult _ _ t htstack
  have hstep : step t = exec .ret t := step_eq_exec (htinit.trans hinit) (htpc ▸ htarget) (hword ▸ hret)
  exact ⟨u, hstep.trans hu, hupc, hustack, fun r hr => (huregs r hr).trans (htregs r hr)⟩

/-- Settles O42: each key skip tests the byte against the key code (44_input_timers.md rules R200, R201). -/
theorem keySkipResults : Obligations.KeySkipResults :=
  fun _ s => ⟨completeSkip_result beq_iff_eq s, completeSkip_result bne_iff_ne s⟩

end Sys2Proof.Machine
end

section
/-! PROOFS. Flag writers (41_alu.md rules R136 to R141): the write of `VF` followed by the result, the flags as numbers,
and the shifts that undo each other but for one bit. -/

namespace Sys2Proof.Machine

/-! ## The flag, then the result -/

/-- A frame holds for any more registers. -/
theorem WritesOnlyRegs.mono {named named' : List RegIdx} {s t : State} (h : WritesOnlyRegs named s t)
    (hsub : named ⊆ named') : WritesOnlyRegs named' s t := by
  obtain ⟨hregs, hrest⟩ := h
  exact ⟨fun r hr => hregs r fun hmem => hr (hsub hmem), hrest⟩

/-- The two writes are the only ones. -/
theorem writeFlagThenReg_frame (flag : Byte) (x : RegIdx) (result : State → Byte) (s : State) :
    WritesOnlyRegs [vf, x] s (((s.setVF flag).setReg x (result (s.setVF flag))).endCycle (s.pc + 2)) :=
  (State.endCycle_writesOnlyRegs _ _).of_setReg.of_setReg

/-- Into a register other than `VF`: it holds the result and `VF` the flag. -/
theorem writeFlagThenReg_result {flag c r : Byte} {x : RegIdx} {result : State → Byte} {s : State} (hx : x ≠ vf)
    (hflag : flag = c) (hresult : result (s.setVF c) = r) :
    ∃ t, writeFlagThenReg flag x result s = .next t ∧ t.reg x = r ∧ t.reg vf = c ∧ t.pc = s.pc + 2 ∧
      WritesOnlyRegs [x, vf] s t := by
  subst hflag hresult
  refine ⟨_, (completeSeq_next _ _).mpr rfl, State.setReg_reg_self _ _ _, ?_, rfl,
    (writeFlagThenReg_frame _ _ _ _).mono (by simp)⟩
  rw [State.endCycle_reg, State.setReg_reg_ne _ _ hx]
  exact s.setReg_reg_self vf flag

/-- Into `VF` itself: the result, computed from the flag, replaces it (D18). -/
theorem writeFlagThenVF_result {flag c r : Byte} {result : State → Byte} {s : State}
    (hflag : flag = c) (hresult : result (s.setVF c) = r) :
    ∃ t, writeFlagThenReg flag vf result s = .next t ∧ t.reg vf = r ∧ t.pc = s.pc + 2 ∧ WritesOnlyRegs [vf] s t := by
  subst hflag hresult
  exact ⟨_, (completeSeq_next _ _).mpr rfl, State.setReg_reg_self _ _ _, rfl,
    (writeFlagThenReg_frame _ _ _ _).mono (by simp)⟩

/-- Registers as the write of `VF` leaves them. -/
theorem State.setVF_reg_ne (s : State) (c : Byte) {x : RegIdx} (hx : x ≠ vf) : (s.setVF c).reg x = s.reg x :=
  s.setReg_reg_ne c hx.symm

theorem State.setVF_reg_vf (s : State) (c : Byte) : (s.setVF c).reg vf = c :=
  s.setReg_reg_self vf c

/-! ## The instructions in this form -/

theorem exec_addVxVy (x y : RegIdx) (s : State) : exec (.addVxVy x y) s =
    writeFlagThenReg (carryFlag (s.reg x) (s.reg y)) x (fun t => t.reg x + t.reg y) s := rfl

theorem exec_subVxVy (x y : RegIdx) (s : State) : exec (.subVxVy x y) s =
    writeFlagThenReg (greaterFlag (s.reg x) (s.reg y)) x (fun t => t.reg x - t.reg y) s := rfl

theorem exec_subnVxVy (x y : RegIdx) (s : State) : exec (.subnVxVy x y) s =
    writeFlagThenReg (greaterFlag (s.reg y) (s.reg x)) x (fun t => t.reg y - t.reg x) s := rfl

theorem exec_shrVx (x : RegIdx) (s : State) :
    exec (.shrVx x) s = writeFlagThenReg (lowBitFlag (s.reg x)) x (fun t => t.reg x >>> 1) s := rfl

theorem exec_shlVx (x : RegIdx) (s : State) :
    exec (.shlVx x) s = writeFlagThenReg (highBitFlag (s.reg x)) x (fun t => t.reg x <<< 1) s := rfl

/-! ## The flags -/

theorem flagByte_decide (P : Prop) [Decidable P] : flagByte (decide P) = if P then 1 else 0 := by
  simp [flagByte]

theorem carryFlag_eq (a b : Byte) : carryFlag a b = if a.toNat + b.toNat > 255 then 1 else 0 :=
  flagByte_decide _

theorem greaterFlag_eq (a b : Byte) : greaterFlag a b = if a.toNat > b.toNat then 1 else 0 :=
  flagByte_decide _

/-- A bit as a flag is that bit of the number. -/
theorem flagByte_getLsbD_toNat (a : Byte) (k : Nat) : (flagByte (a.getLsbD k)).toNat = a.toNat / 2 ^ k % 2 := by
  rw [BitVec.getLsbD, Nat.testBit_eq_decide_div_mod_eq, flagByte_decide]
  split
  · next h => rw [h]; rfl
  · next h => simp; omega

theorem lowBitFlag_toNat (a : Byte) : (lowBitFlag a).toNat = a.toNat % 2 := by
  rw [lowBitFlag, flagByte_getLsbD_toNat, pow_zero, Nat.div_one]

theorem highBitFlag_toNat (a : Byte) : (highBitFlag a).toNat = a.toNat / 128 := by
  have hlt : a.toNat < 256 := a.isLt
  rw [highBitFlag, flagByte_getLsbD_toNat]
  omega

/-! ## Sums and differences (rules R136, R137, R139) -/

/-- A difference of bytes as a number. -/
theorem byte_sub_toNat (a b : Byte) : (a - b).toNat = (a.toNat + 256 - b.toNat) % 256 := by
  have hb : b.toNat < 256 := b.isLt
  rw [BitVec.toNat_sub]
  omega

/-- Settles O26: with both operands other than `VF`, the result reads the old values. -/
theorem addSubtractResults : Obligations.AddSubtractResults := by
  intro x y s hx hy
  have hxr (c : Byte) := s.setVF_reg_ne c hx
  have hyr (c : Byte) := s.setVF_reg_ne c hy
  rw [exec_addVxVy, exec_subVxVy, exec_subnVxVy]
  refine ⟨?_, ?_, ?_⟩
  · obtain ⟨t, ht, hsum, hrest⟩ := writeFlagThenReg_result (result := fun t => t.reg x + t.reg y) hx
      (carryFlag_eq (s.reg x) (s.reg y)) rfl
    exact ⟨t, ht, by rw [hsum, hxr, hyr, BitVec.toNat_add], hrest⟩
  · obtain ⟨t, ht, hdiff, hrest⟩ := writeFlagThenReg_result (result := fun t => t.reg x - t.reg y) hx
      (greaterFlag_eq (s.reg x) (s.reg y)) rfl
    exact ⟨t, ht, by rw [hdiff, hxr, hyr, byte_sub_toNat], hrest⟩
  · obtain ⟨t, ht, hdiff, hrest⟩ := writeFlagThenReg_result (result := fun t => t.reg y - t.reg x) hx
      (greaterFlag_eq (s.reg y) (s.reg x)) rfl
    exact ⟨t, ht, by rw [hdiff, hxr, hyr, byte_sub_toNat], hrest⟩

/-- Twice the carry of a byte with itself. -/
theorem carryFlag_self_double (b : Byte) : carryFlag b b + carryFlag b b = if 128 ≤ b.toNat then 2 else 0 := by
  rw [carryFlag_eq]
  by_cases h : 128 ≤ b.toNat
  · rw [if_pos h, if_pos (by omega)]
    rfl
  · rw [if_neg h, if_neg (by omega)]
    rfl

/-- Settles O27: the result reads the flag in place of `VF`, in each corner of the sequential reading (D18). -/
theorem addSubtractOnVF : Obligations.AddSubtractOnVF := by
  intro x s hx
  have hxr (c : Byte) := s.setVF_reg_ne c hx
  have hvf (c : Byte) := s.setVF_reg_vf c
  simp only [exec_addVxVy, exec_subVxVy, exec_subnVxVy]
  refine ⟨fun c hc => ⟨?_, ?_⟩, fun c hc => ⟨?_, ?_⟩, fun c hc => ⟨?_, ?_⟩, ?_, ?_, ?_⟩
  · exact writeFlagThenReg_result hx ((carryFlag_eq _ _).trans hc.symm) (by rw [hxr, hvf])
  · have hcomm : carryFlag (s.reg vf) (s.reg x) = c := by rw [carryFlag_eq, Nat.add_comm, hc]
    exact writeFlagThenVF_result hcomm (by rw [hxr, hvf])
  · exact writeFlagThenReg_result hx ((greaterFlag_eq _ _).trans hc.symm) (by rw [hxr, hvf])
  · exact writeFlagThenVF_result ((greaterFlag_eq _ _).trans hc.symm) (by rw [hxr, hvf])
  · exact writeFlagThenVF_result ((greaterFlag_eq _ _).trans hc.symm) (by rw [hxr, hvf])
  · exact writeFlagThenReg_result hx ((greaterFlag_eq _ _).trans hc.symm) (by rw [hxr, hvf])
  · exact writeFlagThenVF_result rfl (by rw [hvf, carryFlag_self_double])
  · exact writeFlagThenVF_result rfl (by rw [hvf, BitVec.sub_self]; rfl)
  · exact writeFlagThenVF_result rfl (by rw [hvf, BitVec.sub_self]; rfl)

/-! ## Shifts (rules R138, R140, R141) -/

theorem byte_shr_toNat (a : Byte) : (a >>> 1).toNat = a.toNat / 2 := by
  rw [BitVec.toNat_ushiftRight, Nat.shiftRight_eq_div_pow, pow_one]

theorem byte_shl_toNat (a : Byte) : (a <<< 1).toNat = 2 * a.toNat % 256 := by
  rw [BitVec.toNat_shiftLeft, Nat.shiftLeft_eq, pow_one, Nat.mul_comm]

/-- SHR into a register other than `VF`. -/
theorem shr_result {x : RegIdx} (hx : x ≠ vf) (s : State) :
    ∃ t, exec (.shrVx x) s = .next t ∧ (t.reg x).toNat = (s.reg x).toNat / 2 ∧
      (t.reg vf).toNat = (s.reg x).toNat % 2 ∧ t.pc = s.pc + 2 ∧ WritesOnlyRegs [x, vf] s t := by
  rw [exec_shrVx]
  obtain ⟨t, ht, hval, hflag, hrest⟩ := writeFlagThenReg_result (s := s) (result := fun t => t.reg x >>> 1) hx
    (Eq.refl (lowBitFlag (s.reg x))) rfl
  exact ⟨t, ht, by rw [hval, s.setVF_reg_ne _ hx, byte_shr_toNat], by rw [hflag, lowBitFlag_toNat], hrest⟩

/-- SHL into a register other than `VF`. -/
theorem shl_result {x : RegIdx} (hx : x ≠ vf) (s : State) :
    ∃ t, exec (.shlVx x) s = .next t ∧ (t.reg x).toNat = 2 * (s.reg x).toNat % 256 ∧
      (t.reg vf).toNat = (s.reg x).toNat / 128 ∧ t.pc = s.pc + 2 ∧ WritesOnlyRegs [x, vf] s t := by
  rw [exec_shlVx]
  obtain ⟨t, ht, hval, hflag, hrest⟩ := writeFlagThenReg_result (s := s) (result := fun t => t.reg x <<< 1) hx
    (Eq.refl (highBitFlag (s.reg x))) rfl
  exact ⟨t, ht, by rw [hval, s.setVF_reg_ne _ hx, byte_shl_toNat], by rw [hflag, highBitFlag_toNat], hrest⟩

/-- Settles O28: beside the two results above, a shift of `VF` shifts the flag it has just written (D18). -/
theorem shiftResults : Obligations.ShiftResults := by
  intro x s
  refine ⟨fun hx => shr_result hx s, fun hx => shl_result hx s, ?_, ?_⟩
  · rintro rfl
    have hlow : lowBitFlag (s.reg vf) >>> 1 = 0 := by
      apply BitVec.eq_of_toNat_eq
      rw [byte_shr_toNat, lowBitFlag_toNat]
      simp
    rw [exec_shrVx]
    exact writeFlagThenVF_result rfl (by rw [s.setVF_reg_vf, hlow])
  · rintro rfl
    rw [exec_shlVx]
    obtain ⟨t, ht, hval, hrest⟩ := writeFlagThenVF_result (s := s) (result := fun t => t.reg vf <<< 1)
      (Eq.refl (highBitFlag (s.reg vf))) rfl
    have hlt : (s.reg vf).toNat < 256 := (s.reg vf).isLt
    refine ⟨t, ht, ?_, hrest⟩
    rw [hval, s.setVF_reg_vf, byte_shl_toNat, highBitFlag_toNat]
    omega

/-- Clearing bit 7, as a number. -/
theorem and_7F_toNat (a : Byte) : (a &&& 0x7F).toNat = a.toNat % 128 := by
  rw [BitVec.toNat_and]
  exact Nat.and_two_pow_sub_one_eq_mod a.toNat 7

/-- Clearing bit 0, as a number. -/
theorem and_FE_toNat (a : Byte) : (a &&& 0xFE).toNat = 2 * (a.toNat / 2) := by
  have hsplit : a &&& 0xFE = a.extractLsb' 1 7 ++ 0#1 := by
    apply BitVec.eq_of_getLsbD_eq; intro k hk
    rw [BitVec.getLsbD_append]
    interval_cases k <;> simp
  have hlt : a.toNat < 256 := a.isLt
  rw [hsplit, toNat_append_add]
  simp [Nat.shiftRight_eq_div_pow]
  omega

/-- Settles O29: the second shift moves every bit back but the one the first moved into `VF` (rule R141). -/
theorem shiftPairLosesOneBit : Obligations.ShiftPairLosesOneBit := by
  intro x s t u hx
  have hlt : (s.reg x).toNat < 256 := (s.reg x).isLt
  refine ⟨fun hst htu => ?_, fun hst htu => ?_⟩
  · obtain ⟨t', ht', hval, hflag, _⟩ := shl_result hx s
    obtain ⟨u', hu', hval', _⟩ := shr_result hx t
    cases ht'.symm.trans hst
    cases hu'.symm.trans htu
    refine ⟨BitVec.eq_of_toNat_eq ?_, by omega⟩
    rw [and_7F_toNat]
    omega
  · obtain ⟨t', ht', hval, hflag, _⟩ := shr_result hx s
    obtain ⟨u', hu', hval', _⟩ := shl_result hx t
    cases ht'.symm.trans hst
    cases hu'.symm.trans htu
    refine ⟨BitVec.eq_of_toNat_eq ?_, by omega⟩
    rw [and_FE_toNat]
    omega

/-- Settles O30: RND writes the masked byte and counts the draw (rule R143); no bit outside the mask can be set. -/
theorem randomResult : Obligations.RandomResult := by
  intro x kk s
  obtain ⟨t, ht, hbyte, hpc, hframe⟩ :=
    writeReg_result x (Config.randomByte s.draws &&& kk) (s.setDraws (s.draws + 1))
  refine ⟨t, ht, hbyte, ?_, fun k hk => ?_, hpc, hframe⟩
  · rw [hbyte, BitVec.toNat_and]
    exact Nat.and_le_right
  · rw [hbyte, BitVec.getLsbD_and, hk, Bool.and_false]

/-- Settles O45: LD ST,VX sets the timer, and the default of D17 does not count it (44_input_timers.md rule R206). -/
theorem soundTimerResult : Obligations.SoundTimerResult :=
  fun _ _ => ⟨_, (completeSeq_next _ _).mpr rfl, rfl, rfl, State.endCycle_writesOnlyRegs _ _⟩

end Sys2Proof.Machine
end

section
/-! PROOFS. Stores and loads at `I` (42_index_memory.md): what a store leaves in memory, the digits and the registers
stored, the registers loaded, and a dump that is loaded back. -/

namespace Sys2Proof.Machine

/-- Settles O32: the sum of words wraps at 2^16 and no flag is written (rule R161, D16). -/
theorem addIndexResult : Obligations.AddIndexResult := by
  intro x s
  obtain ⟨t, ht, hsum, hrest⟩ := writeIndex_result (s.i + (s.reg x).toWord) s
  exact ⟨t, ht, by rw [hsum, BitVec.toNat_add, toWord_toNat], hrest⟩

/-- A store whose bytes all exist writes them in order from `I` on, and no other byte. -/
theorem storeAtI_result {ws : List Byte} {s : State} (h : s.base + ws.length ≤ Config.memSize) :
    ∃ t, storeAtI ws s = .next t ∧ (∀ k (hk : k < ws.length), t.mem.read (s.base + k) = ws[k]) ∧
      SameMemoryOutside s.base ws.length s t ∧ t.pc = s.pc + 2 ∧ WritesOnlyRegs [] (s.setMem t.mem) t := by
  have hstore : storeAtI ws s = completeSeq (s.setMem (s.mem.writeBytes s.base ws)) :=
    guardRange_inside s _ (.inr h)
  exact ⟨_, hstore, fun k hk => Memory.read_writeBytes_inside _ _ _ k hk,
    fun a ha => Memory.read_writeBytes_outside _ _ _ ha, rfl, State.endCycle_writesOnlyRegs _ _⟩

/-- Settles O33: the bytes stored are the three digits (rule R163). -/
theorem bcdStoreResult : Obligations.BcdStoreResult := by
  intro x s h
  have hlt : (s.reg x).toNat < 256 := (s.reg x).isLt
  obtain ⟨t, ht, hread, hout, hrest⟩ := storeAtI_result (ws := bcdDigits (s.reg x)) (s := s)
    (by rw [bcdDigits_length, Config.memSize]; omega)
  have h0 : (t.mem.read s.base).toNat = (s.reg x).toNat / 100 := by
    rw [← Nat.add_zero s.base, hread 0 (by simp)]
    simp [bcdDigits]
    omega
  have h1 : (t.mem.read (s.base + 1)).toNat = (s.reg x).toNat / 10 % 10 := by
    rw [hread 1 (by simp)]
    simp [bcdDigits]
    omega
  have h2 : (t.mem.read (s.base + 2)).toNat = (s.reg x).toNat % 10 := by
    rw [hread 2 (by simp)]
    simp [bcdDigits]
    omega
  exact ⟨t, ht, h0, h1, h2, hout, hrest⟩

/-- Settles O34: the `r`-th byte stored is `V[r]` (rule R165). -/
theorem registerDumpResult : Obligations.RegisterDumpResult := by
  intro x s h
  obtain ⟨t, ht, hread, hout, hrest⟩ := storeAtI_result (ws := s.dumpBytes x) (s := s)
    (by rw [State.dumpBytes_length, Config.memSize]; omega)
  have hregs : ∀ r : RegIdx, r ≤ x → t.mem.read (s.base + r.val) = s.reg r := by
    intro r hr
    have hlen : r.val < (s.dumpBytes x).length := by
      rw [State.dumpBytes_length]
      exact Nat.lt_succ_of_le hr
    rw [hread r.val hlen, State.dumpBytes_getElem]
  rw [State.dumpBytes_length] at hout
  exact ⟨t, ht, hregs, hout, hrest⟩

/-- Replacing the registers and ending the cycle: only those that differ change. -/
theorem State.endCycle_setV_frame {named : List RegIdx} {v : Regs} {s : State}
    (h : ∀ r : RegIdx, r ∉ named → v[r] = s.reg r) (a : Word) : WritesOnlyRegs named s ((s.setV v).endCycle a) := by
  obtain ⟨hregs, hrest⟩ := (s.setV v).endCycle_writesOnlyRegs a
  exact ⟨fun r hr => (hregs r List.not_mem_nil).trans (h r hr), hrest⟩

/-- Settles O35: the registers `0..=X` hold their bytes, the others and memory are as before (rule R166). -/
theorem registerLoadResult : Obligations.RegisterLoadResult := by
  intro x s h
  have hload := State.loadRegs_reg s.mem s.base (regsUpTo x) s
  rcases execLdVxMem_cases x s with ⟨_, he⟩ | ⟨hout, _⟩
  · refine ⟨_, he, fun r hr => ?_, rfl, State.endCycle_setV_frame (fun r hr => ?_) _⟩
    · exact (hload r).trans (if_pos ((mem_regsUpTo x r).mpr hr))
    · exact (hload r).trans (if_neg hr)
  · simp only [Config.memSize] at hout
    omega

/-- Settles O36: a dump that completed was in range, so the load at the same `I` is too, and reads what the dump stored
(rule R167). -/
theorem dumpThenLoadRoundTrips : Obligations.DumpThenLoadRoundTrips := by
  intro x s t u w hdump hnone hi hmem hload
  obtain ⟨hf, _⟩ := exec_completed hdump hnone
  have hin : s.base + (x.val + 1) ≤ Config.memSize := (inside_of_faultOf hf).resolve_left (by simp [Instr.accessLength])
  obtain ⟨t', ht', hstored, _, _, hframe⟩ := registerDumpResult x s (by simp only [Config.memSize] at hin; omega)
  cases ht'.symm.trans hdump
  obtain ⟨_, _, _, ⟨hti, _⟩, _⟩ := hframe
  have htbase : t.base = s.base := congrArg BitVec.toNat hti
  have hubase : u.base = s.base := (congrArg BitVec.toNat hi).trans htbase
  obtain ⟨w', hw', hloaded, _, hwregs, _⟩ := registerLoadResult x u
    (by rw [hubase]; simp only [Config.memSize] at hin; omega)
  cases hw'.symm.trans hload
  have huf : faultOf (.ldVxMem x) u = none := faultOf_inside (by simp) (.inr (by rw [hubase]; exact hin))
  refine ⟨?_, fun r hr => ?_, fun r hr => hwregs r fun hmem => absurd ((mem_regsUpTo x r).mp hmem) (not_le.mpr hr)⟩
  · rw [exec_complete huf] at hload
    cases hload
    rfl
  · rw [hloaded r hr, hubase, ← htbase, hmem r hr, htbase, hstored r hr]

end Sys2Proof.Machine
end

section
/-! PROOFS. Drawing (43_display.md): the loop is the plotting of a list of distinct points, which XORs each of them once;
the points are the bits of the sprite, so the loop meets its closed form. -/

namespace Sys2Proof.Machine

/-! ## Plotting points -/

/-- Plot points in order. -/
def Canvas.plotAll (ps : List (Nat × Nat)) (c : Canvas) : Canvas := ps.foldl (fun c p => c.plot p.1 p.2) c

/-- Plotting leaves every pixel that is not plotted, off the grid as well. -/
theorem Canvas.plot_pixel_ne (c : Canvas) {x y px py : Nat} (h : (px, py) ≠ (x, y)) :
    (c.plot x y).fb.pixel px py = c.fb.pixel px py := by
  have hp : ¬ (px = x ∧ py = y) := fun he => h (Prod.ext he.1 he.2)
  rcases c.plot_cases x y with ⟨hxg, hyg, hc⟩ | ⟨_, hc⟩
  · rw [hc, Framebuffer.pixel_toggle _ (by omega) (by omega), if_neg hp]
  · rw [hc]

/-- A plotted point inverts its pixel; seen on the grid, where the other points stay. -/
theorem Canvas.plot_pixel (c : Canvas) (x y : Nat) {px py : Nat} (hx : px < 64) (hy : py < 32) :
    (c.plot x y).fb.pixel px py = (c.fb.pixel px py ^^ decide ((px, py) = (x, y))) := by
  by_cases hp : (px, py) = (x, y)
  · cases hp
    rcases c.plot_cases x y with ⟨_, _, h⟩ | ⟨hoff, _⟩
    · rw [h, Framebuffer.pixel_toggle _ hx hy, if_pos ⟨rfl, rfl⟩, decide_eq_true rfl, Bool.xor_true]
    · omega
  · rw [c.plot_pixel_ne hp, decide_eq_false hp, Bool.xor_false]

/-- It collides where the pixel was set; off the grid no pixel is. -/
theorem Canvas.plot_collision (c : Canvas) (x y : Nat) :
    (c.plot x y).collision = (c.collision || c.fb.pixel x y) := by
  rcases c.plot_cases x y with ⟨_, _, h⟩ | ⟨hoff, h⟩
  · rw [h]
  · have hunset : c.fb.pixel x y = false := by
      rcases (by omega : 64 ≤ x ∨ 32 ≤ y) with hx | hy
      · exact c.fb.pixel_right y hx
      · exact c.fb.pixel_below x hy
    rw [h, hunset, Bool.or_false]

/-- Distinct points are each inverted once. -/
theorem Canvas.plotAll_pixel {ps : List (Nat × Nat)} (hps : ps.Nodup) (c : Canvas) {px py : Nat} (hx : px < 64)
    (hy : py < 32) : (c.plotAll ps).fb.pixel px py = (c.fb.pixel px py ^^ decide ((px, py) ∈ ps)) := by
  induction ps generalizing c with
  | nil => simp [Canvas.plotAll]
  | cons p ps ih =>
    obtain ⟨hp, hrest⟩ := List.nodup_cons.mp hps
    have hstep : (c.plotAll (p :: ps)) = (c.plot p.1 p.2).plotAll ps := rfl
    rw [hstep, ih hrest, Canvas.plot_pixel c p.1 p.2 hx hy]
    by_cases he : (px, py) = p
    · subst he
      simp [hp]
    · simp [he]

/-- Distinct points collide where one of them was set before any was plotted. -/
theorem Canvas.plotAll_collision {ps : List (Nat × Nat)} (hps : ps.Nodup) (c : Canvas) :
    (c.plotAll ps).collision = (c.collision || ps.any fun p => c.fb.pixel p.1 p.2) := by
  induction ps generalizing c with
  | nil => simp [Canvas.plotAll]
  | cons p ps ih =>
    obtain ⟨hp, hrest⟩ := List.nodup_cons.mp hps
    have hstep : (c.plotAll (p :: ps)) = (c.plot p.1 p.2).plotAll ps := rfl
    have hkeep : (ps.any fun q => (c.plot p.1 p.2).fb.pixel q.1 q.2) = ps.any fun q => c.fb.pixel q.1 q.2 := by
      rw [Bool.eq_iff_iff, List.any_eq_true, List.any_eq_true]
      refine exists_congr fun q => and_congr_right fun hq => ?_
      rw [c.plot_pixel_ne (px := q.1) (py := q.2) fun he => hp ((show q = p from he) ▸ hq)]
    rw [hstep, ih hrest, Canvas.plot_collision, hkeep, List.any_cons, Bool.or_assoc]

/-! ## The points of a sprite -/

/-- The points a row draws: its set bits among the given columns. -/
def rowPoints (row : Byte) (x0 y : Nat) (cols : List Nat) : List (Nat × Nat) :=
  (cols.filter fun col => row.getLsbD (7 - col)).map fun col => (x0 + col, y)

/-- The points a sprite draws. -/
def spritePoints (m : Memory) (base x0 y0 : Nat) (rows : List Nat) : List (Nat × Nat) :=
  rows.flatMap fun r => rowPoints (m.read (base + r)) x0 (y0 + r) spriteColumns

theorem Canvas.drawRow_eq (row : Byte) (x0 y : Nat) (cols : List Nat) (c : Canvas) :
    Canvas.drawRow row x0 y cols c = c.plotAll (rowPoints row x0 y cols) := by
  induction cols generalizing c with
  | nil => rfl
  | cons col cols ih =>
    rw [Canvas.drawRow, ih]
    by_cases h : row.getLsbD (7 - col) <;> simp [rowPoints, Canvas.plotAll, h]

theorem Canvas.drawRows_eq (m : Memory) (base x0 y0 : Nat) (rows : List Nat) (c : Canvas) :
    Canvas.drawRows m base x0 y0 rows c = c.plotAll (spritePoints m base x0 y0 rows) := by
  induction rows generalizing c with
  | nil => rfl
  | cons r rows ih =>
    rw [Canvas.drawRows, ih, Canvas.drawRow_eq]
    exact List.foldl_append.symm

theorem mem_rowPoints {row : Byte} {x0 y : Nat} {cols : List Nat} {px py : Nat} :
    (px, py) ∈ rowPoints row x0 y cols ↔ ∃ col ∈ cols, row.getLsbD (7 - col) = true ∧ x0 + col = px ∧ y = py := by
  simp [rowPoints, and_assoc]

theorem mem_spriteColumns (col : Nat) : col ∈ spriteColumns ↔ col ≤ 7 := by
  simp [spriteColumns]
  omega

theorem rowPoints_nodup (row : Byte) (x0 y : Nat) {cols : List Nat} (h : cols.Nodup) :
    (rowPoints row x0 y cols).Nodup := by
  refine (h.filter _).map fun a b hab => ?_
  have hcol : x0 + a = x0 + b := congrArg Prod.fst hab
  omega

theorem spritePoints_nodup (m : Memory) (base x0 y0 n : Nat) :
    (spritePoints m base x0 y0 (List.range n)).Nodup := by
  refine List.nodup_flatMap.mpr ⟨fun r _ => rowPoints_nodup _ _ _ (by decide), ?_⟩
  refine List.nodup_range.imp fun {r q} hrq => List.disjoint_left.mpr fun p hr hq => hrq ?_
  obtain ⟨_, _, _, _, hy⟩ := mem_rowPoints.mp hr
  obtain ⟨_, _, _, _, hy'⟩ := mem_rowPoints.mp hq
  omega

/-- The points of a sprite are its bits in closed form (rules R181, R182). -/
theorem mem_spritePoints (s : State) (x y : RegIdx) (n px py : Nat) :
    (px, py) ∈ spritePoints s.mem s.base (s.reg x).toNat (s.reg y).toNat (List.range n) ↔
      spriteBit s x y n px py = true := by
  simp only [spritePoints, List.mem_flatMap, List.mem_range, mem_rowPoints, mem_spriteColumns, spriteBit,
    Bool.and_eq_true, decide_eq_true_eq]
  constructor
  · rintro ⟨r, hr, col, hcol, hbit, rfl, rfl⟩
    rw [Nat.add_sub_cancel_left, Nat.add_sub_cancel_left]
    exact ⟨by omega, hbit⟩
  · rintro ⟨⟨hx, hx7, hy, hyn⟩, hbit⟩
    exact ⟨py - (s.reg y).toNat, by omega, px - (s.reg x).toNat, by omega, hbit, by omega, by omega⟩

/-! ## What DRW draws -/

theorem State.drawn_eq (s : State) (x y : RegIdx) (n : Nat) : s.drawn x y n =
    Canvas.plotAll (spritePoints s.mem s.base (s.reg x).toNat (s.reg y).toNat (List.range n)) ⟨s.fb, false⟩ :=
  Canvas.drawRows_eq _ _ _ _ _ _

/-- Every pixel of the grid is XORed with the sprite's bit there. -/
theorem State.drawn_pixel (s : State) (x y : RegIdx) (n : Nat) {px py : Nat} (hx : px < 64) (hy : py < 32) :
    (s.drawn x y n).fb.pixel px py = (s.fb.pixel px py ^^ spriteBit s x y n px py) := by
  rw [State.drawn_eq, Canvas.plotAll_pixel (spritePoints_nodup _ _ _ _ _) _ hx hy]
  congr 1
  rw [Bool.eq_iff_iff, decide_eq_true_eq, mem_spritePoints]

/-- A set pixel lies on the grid. -/
theorem Framebuffer.lt_of_pixel {f : Framebuffer} {x y : Nat} (h : f.pixel x y = true) : x < 64 ∧ y < 32 := by
  constructor
  · by_contra hx
    rw [f.pixel_right y (by omega)] at h
    cases h
  · by_contra hy
    rw [f.pixel_below x (by omega)] at h
    cases h

/-- The collision is a bit of the sprite on a set pixel. -/
theorem State.drawn_collision (s : State) (x y : RegIdx) (n : Nat) : (s.drawn x y n).collision = true ↔
    ∃ px py, px < 64 ∧ py < 32 ∧ spriteBit s x y n px py = true ∧ s.fb.pixel px py = true := by
  rw [State.drawn_eq, Canvas.plotAll_collision (spritePoints_nodup _ _ _ _ _), Bool.false_or, List.any_eq_true]
  constructor
  · rintro ⟨⟨px, py⟩, hmem, hset⟩
    obtain ⟨hx, hy⟩ := Framebuffer.lt_of_pixel hset
    exact ⟨px, py, hx, hy, (mem_spritePoints s x y n px py).mp hmem, hset⟩
  · rintro ⟨px, py, _, _, hbit, hset⟩
    exact ⟨(px, py), (mem_spritePoints s x y n px py).mpr hbit, hset⟩

theorem flagByte_eq_one_iff (b : Bool) : flagByte b = 1 ↔ b = true := by
  cases b <;> decide

/-- Where the sprite's bytes exist, DRW leaves the drawn screen and the collision as a flag, and nothing else. -/
theorem drw_result {n : Nat} {s : State} (h : n = 0 ∨ s.base + n ≤ Config.memSize) (x y : RegIdx) :
    ∃ t, exec (.drwVxVyN x y n) s = .next t ∧ t.fb = (s.drawn x y n).fb ∧
      t.reg vf = flagByte (s.drawn x y n).collision ∧ t.pc = s.pc + 2 ∧ WritesOnlyRegs [vf] (s.setFb t.fb) t :=
  ⟨_, guardRange_inside s _ h, rfl, State.setReg_reg_self _ _ _, rfl, (State.endCycle_writesOnlyRegs _ _).of_setReg⟩

/-- Settles O39: the loop plots the sprite's bits, each once, and `VF` is the collision it saw (rules R181 to R183). -/
theorem drawXorsSpriteBits : Obligations.DrawXorsSpriteBits := by
  intro x y n s hin
  obtain ⟨t, ht, hfb, hvf, hrest⟩ := drw_result hin x y
  have hpix : ∀ px py, px < 64 → py < 32 → t.fb.pixel px py = (s.fb.pixel px py ^^ spriteBit s x y n px py) :=
    fun px py hx hy => by rw [hfb, s.drawn_pixel x y n hx hy]
  exact ⟨t, ht, hpix, by rw [hvf, flagByte_eq_one_iff, s.drawn_collision], hvf ▸ flagByte_zero_or_one _, hrest⟩

/-! ## Consequences of the closed form (rules R183 to R185) -/

/-- A sprite without rows, or that starts off the grid, has no bit on it. -/
theorem spriteBit_off_grid {s : State} {x y : RegIdx} {n : Nat}
    (h : n = 0 ∨ 64 ≤ (s.reg x).toNat ∨ 32 ≤ (s.reg y).toNat) {px py : Nat} (hx : px < 64) (hy : py < 32) :
    spriteBit s x y n px py = false := by
  have hout : ¬ ((s.reg x).toNat ≤ px ∧ px ≤ (s.reg x).toNat + 7 ∧ (s.reg y).toNat ≤ py ∧
      py < (s.reg y).toNat + n) := by omega
  rw [spriteBit, decide_eq_false hout, Bool.false_and]

/-- Settles O40: with no bit on the grid, nothing is inverted and nothing collides (rules R183, R184). -/
theorem drawOffGridDrawsNothing : Obligations.DrawOffGridDrawsNothing := by
  intro x y n s h
  obtain ⟨t, ht, hpix, hone, hflag, hpc, hframe⟩ := drawXorsSpriteBits x y n s (h.imp_right And.left)
  have hoff : ∀ px py, px < 64 → py < 32 → spriteBit s x y n px py = false := fun _ _ hx hy =>
    spriteBit_off_grid (h.imp_right And.right) hx hy
  have hfb : t.fb = s.fb := Framebuffer.ext_pixel fun px py hx hy => by
    rw [hpix px py hx hy, hoff px py hx hy, Bool.xor_false]
  have hzero : t.reg vf = 0 := hflag.resolve_right fun h1 => by
    obtain ⟨px, py, hx, hy, hbit, _⟩ := hone.mp h1
    simp [hoff px py hx hy] at hbit
  have hsame : s.setFb t.fb = s := by
    rw [hfb]
    rfl
  exact ⟨t, ht, hfb, hzero, hpc, hsame ▸ hframe⟩

/-- The sprite depends on memory, `I` and the two position registers alone. -/
theorem spriteBit_congr {s u : State} {x y : RegIdx} (hmem : u.mem = s.mem) (hi : u.i = s.i)
    (hx : u.reg x = s.reg x) (hy : u.reg y = s.reg y) (n px py : Nat) :
    spriteBit u x y n px py = spriteBit s x y n px py := by
  rw [spriteBit, spriteBit, hmem, hi, hx, hy]

/-- Settles O41: XOR with the same bits twice is the identity, and the second draw collides on the pixels the first
turned on (rule R185). -/
theorem drawTwiceRestoresScreen : Obligations.DrawTwiceRestoresScreen := by
  intro x y n s t u w hin hst hfb hmem hi hx hy huw
  obtain ⟨t', ht', hpix, _⟩ := drawXorsSpriteBits x y n s hin
  cases ht'.symm.trans hst
  have hbase : u.base = s.base := congrArg BitVec.toNat hi
  obtain ⟨w', hw', hpix', hone, _⟩ := drawXorsSpriteBits x y n u (by rw [hbase]; exact hin)
  cases hw'.symm.trans huw
  simp only [hfb, spriteBit_congr hmem hi hx hy] at hpix' hone
  refine ⟨Framebuffer.ext_pixel fun px py hpx hpy => ?_, hone.trans ?_⟩
  · rw [hpix' px py hpx hpy, hpix px py hpx hpy, Bool.xor_assoc, Bool.xor_self, Bool.xor_false]
  · refine exists_congr fun px => exists_congr fun py => and_congr_right fun hpx => and_congr_right fun hpy => ?_
    rw [hpix px py hpx hpy]
    cases spriteBit s x y n px py <;> cases s.fb.pixel px py <;> decide

end Sys2Proof.Machine
end
